-- ==== Sys2Proof/Word.lean ====
section
/-! DEFINITION. The bit vectors of the hardware: a byte (XLEN), a 16-bit word (ILEN, I, pc), a nibble field (X, Y, N) and a
12-bit address field (NNN). spec/00_scope.md R4, R6, R7. -/

namespace Sys2Proof

/-- An 8-bit quantity: a general register, a memory byte, KK (R4: XLEN = 8). -/
abbrev Byte := BitVec 8

/-- A 16-bit quantity: an instruction word, I, pc, a stack cell (R4). -/
abbrev Word := BitVec 16

/-- A 4-bit field of an opcode: X, Y or N (R6); also a register number and a key index. -/
abbrev Nibble := BitVec 4

/-- The 12-bit field NNN of an opcode (R6). -/
abbrev Addr12 := BitVec 12

end Sys2Proof
end

