-- ==== Sys2Proof/Syntax.lean ====
section
/-! DEFINITION. The 34 instructions of spec/30_encoding.md R65, one constructor per row of spec/opcode_table.json, in the table's
order, with their formats (R62), their table names and their assembler text (R70). -/

namespace Sys2Proof

/-- An instruction with its field values (R63: X and Y select registers, KK is a byte, NNN a 12-bit address, N a row count).
Every value of every field is a legal operand (R69), so the fields have exactly the widths of the encoding. -/
inductive Instr where
  | cls
  | ret
  | jp (nnn : Addr12)
  | call (nnn : Addr12)
  | seI (x : Nibble) (kk : Byte)
  | sneI (x : Nibble) (kk : Byte)
  | seR (x y : Nibble)
  | ldI (x : Nibble) (kk : Byte)
  | addI (x : Nibble) (kk : Byte)
  | ldR (x y : Nibble)
  | orR (x y : Nibble)
  | andR (x y : Nibble)
  | xorR (x y : Nibble)
  | addR (x y : Nibble)
  | sub (x y : Nibble)
  | shr (x y : Nibble)
  | subn (x y : Nibble)
  | shl (x y : Nibble)
  | sneR (x y : Nibble)
  | ldIndex (nnn : Addr12)
  | jpV0 (nnn : Addr12)
  | rnd (x : Nibble) (kk : Byte)
  | drw (x y n : Nibble)
  | skp (x : Nibble)
  | sknp (x : Nibble)
  | ldGetDT (x : Nibble)
  | ldKey (x : Nibble)
  | ldSetDT (x : Nibble)
  | ldSetST (x : Nibble)
  | addIndex (x : Nibble)
  | ldFont (x : Nibble)
  | ldBcd (x : Nibble)
  | ldStore (x : Nibble)
  | ldLoad (x : Nibble)
  deriving DecidableEq, Repr

/-- The six formats (R62). -/
inductive Format where
  | fixed
  | nnn
  | xkk
  | xys
  | xyn
  | xss
  deriving DecidableEq, Repr

/-- The format of each instruction (R65, column "format"). -/
def Instr.format : Instr → Format
  | .cls => .fixed
  | .ret => .fixed
  | .jp _ => .nnn
  | .call _ => .nnn
  | .seI _ _ => .xkk
  | .sneI _ _ => .xkk
  | .seR _ _ => .xys
  | .ldI _ _ => .xkk
  | .addI _ _ => .xkk
  | .ldR _ _ => .xys
  | .orR _ _ => .xys
  | .andR _ _ => .xys
  | .xorR _ _ => .xys
  | .addR _ _ => .xys
  | .sub _ _ => .xys
  | .shr _ _ => .xys
  | .subn _ _ => .xys
  | .shl _ _ => .xys
  | .sneR _ _ => .xys
  | .ldIndex _ => .nnn
  | .jpV0 _ => .nnn
  | .rnd _ _ => .xkk
  | .drw _ _ _ => .xyn
  | .skp _ => .xss
  | .sknp _ => .xss
  | .ldGetDT _ => .xss
  | .ldKey _ => .xss
  | .ldSetDT _ => .xss
  | .ldSetST _ => .xss
  | .addIndex _ => .xss
  | .ldFont _ => .xss
  | .ldBcd _ => .xss
  | .ldStore _ => .xss
  | .ldLoad _ => .xss

/-- The identifier of each instruction's row (R65, column "identifier"; spec/opcode_table.json, "mnemonic"). -/
def Instr.mnemonic : Instr → String
  | .cls => "CLS"
  | .ret => "RET"
  | .jp _ => "JP"
  | .call _ => "CALL"
  | .seI _ _ => "SE_I"
  | .sneI _ _ => "SNE_I"
  | .seR _ _ => "SE_R"
  | .ldI _ _ => "LD_I"
  | .addI _ _ => "ADD_I"
  | .ldR _ _ => "LD_R"
  | .orR _ _ => "OR"
  | .andR _ _ => "AND"
  | .xorR _ _ => "XOR"
  | .addR _ _ => "ADD_R"
  | .sub _ _ => "SUB"
  | .shr _ _ => "SHR"
  | .subn _ _ => "SUBN"
  | .shl _ _ => "SHL"
  | .sneR _ _ => "SNE_R"
  | .ldIndex _ => "LD_INDEX"
  | .jpV0 _ => "JP_V0"
  | .rnd _ _ => "RND"
  | .drw _ _ _ => "DRW"
  | .skp _ => "SKP"
  | .sknp _ => "SKNP"
  | .ldGetDT _ => "LD_GETDT"
  | .ldKey _ => "LD_KEY"
  | .ldSetDT _ => "LD_SETDT"
  | .ldSetST _ => "LD_SETST"
  | .addIndex _ => "ADD_INDEX"
  | .ldFont _ => "LD_FONT"
  | .ldBcd _ => "LD_BCD"
  | .ldStore _ => "LD_STORE"
  | .ldLoad _ => "LD_LOAD"

/-- A hexadecimal digit, in capitals as R70 writes V9 and VA. -/
def hexDigit (d : Nibble) : String :=
  String.singleton (Nat.digitChar d.toNat).toUpper

/-- `V0` to `VF` (R70). -/
def asmReg (r : Nibble) : String := "V" ++ hexDigit r

/-- A byte with the prefix `0x` (R70). -/
def asmByte (b : Byte) : String :=
  "0x" ++ hexDigit (b.extractLsb' 4 4) ++ hexDigit (b.extractLsb' 0 4)

/-- A 12-bit address with the prefix `0x` (R70). -/
def asmAddr (a : Addr12) : String :=
  "0x" ++ hexDigit (a.extractLsb' 8 4) ++ hexDigit (a.extractLsb' 4 4) ++ hexDigit (a.extractLsb' 0 4)

/-- The assembler text of an instruction (R65, column "syntax"; R70). Nothing in the machine depends on it. -/
def Instr.asm : Instr → String
  | .cls => "CLS"
  | .ret => "RET"
  | .jp nnn => "JP " ++ asmAddr nnn
  | .call nnn => "CALL " ++ asmAddr nnn
  | .seI x kk => "SE " ++ asmReg x ++ ", " ++ asmByte kk
  | .sneI x kk => "SNE " ++ asmReg x ++ ", " ++ asmByte kk
  | .seR x y => "SE " ++ asmReg x ++ ", " ++ asmReg y
  | .ldI x kk => "LD " ++ asmReg x ++ ", " ++ asmByte kk
  | .addI x kk => "ADD " ++ asmReg x ++ ", " ++ asmByte kk
  | .ldR x y => "LD " ++ asmReg x ++ ", " ++ asmReg y
  | .orR x y => "OR " ++ asmReg x ++ ", " ++ asmReg y
  | .andR x y => "AND " ++ asmReg x ++ ", " ++ asmReg y
  | .xorR x y => "XOR " ++ asmReg x ++ ", " ++ asmReg y
  | .addR x y => "ADD " ++ asmReg x ++ ", " ++ asmReg y
  | .sub x y => "SUB " ++ asmReg x ++ ", " ++ asmReg y
  | .shr x y => "SHR " ++ asmReg x ++ ", " ++ asmReg y
  | .subn x y => "SUBN " ++ asmReg x ++ ", " ++ asmReg y
  | .shl x y => "SHL " ++ asmReg x ++ ", " ++ asmReg y
  | .sneR x y => "SNE " ++ asmReg x ++ ", " ++ asmReg y
  | .ldIndex nnn => "LD I, " ++ asmAddr nnn
  | .jpV0 nnn => "JP V0, " ++ asmAddr nnn
  | .rnd x kk => "RND " ++ asmReg x ++ ", " ++ asmByte kk
  | .drw x y n => "DRW " ++ asmReg x ++ ", " ++ asmReg y ++ ", 0x" ++ hexDigit n
  | .skp x => "SKP " ++ asmReg x
  | .sknp x => "SKNP " ++ asmReg x
  | .ldGetDT x => "LD " ++ asmReg x ++ ", DT"
  | .ldKey x => "LD " ++ asmReg x ++ ", K"
  | .ldSetDT x => "LD DT, " ++ asmReg x
  | .ldSetST x => "LD ST, " ++ asmReg x
  | .addIndex x => "ADD I, " ++ asmReg x
  | .ldFont x => "LD F, " ++ asmReg x
  | .ldBcd x => "LD B, " ++ asmReg x
  | .ldStore x => "LD [I], " ++ asmReg x
  | .ldLoad x => "LD " ++ asmReg x ++ ", [I]"

end Sys2Proof
end

