-- ==== Sys2Proof/WellFormed.lean ====
section
/-! DEFINITION. The check on an instruction's operands as numbers: each field the format has is within its width, and a field
the format does not have is absent (spec/30_encoding.md R62, R63). No value within the width is reserved (R69). -/

namespace Sys2Proof

/-- Operand values written as plain numbers, as an assembler line gives them (R70); a field not written is 0. -/
structure Fields where
  x   : Nat := 0
  y   : Nat := 0
  n   : Nat := 0
  kk  : Nat := 0
  nnn : Nat := 0
  deriving DecidableEq, Repr

/-- Does the format admit these operands? X, Y and N are 0..15, KK is 0..255, NNN is 0..0xFFF (R63). -/
def Format.accepts : Format → Fields → Bool
  | .fixed, f => f == {}
  | .nnn, f => decide (f.nnn < 4096) && f == { nnn := f.nnn }
  | .xkk, f => decide (f.x < 16) && decide (f.kk < 256) && f == { x := f.x, kk := f.kk }
  | .xys, f => decide (f.x < 16) && decide (f.y < 16) && f == { x := f.x, y := f.y }
  | .xyn, f => decide (f.x < 16) && decide (f.y < 16) && decide (f.n < 16) && f == { x := f.x, y := f.y, n := f.n }
  | .xss, f => decide (f.x < 16) && f == { x := f.x }

/-- The operands of an instruction, as numbers. -/
def Instr.fields : Instr → Fields
  | .cls => {}
  | .ret => {}
  | .jp nnn => { nnn := nnn.toNat }
  | .call nnn => { nnn := nnn.toNat }
  | .seI x kk => { x := x.toNat, kk := kk.toNat }
  | .sneI x kk => { x := x.toNat, kk := kk.toNat }
  | .seR x y => { x := x.toNat, y := y.toNat }
  | .ldI x kk => { x := x.toNat, kk := kk.toNat }
  | .addI x kk => { x := x.toNat, kk := kk.toNat }
  | .ldR x y => { x := x.toNat, y := y.toNat }
  | .orR x y => { x := x.toNat, y := y.toNat }
  | .andR x y => { x := x.toNat, y := y.toNat }
  | .xorR x y => { x := x.toNat, y := y.toNat }
  | .addR x y => { x := x.toNat, y := y.toNat }
  | .sub x y => { x := x.toNat, y := y.toNat }
  | .shr x y => { x := x.toNat, y := y.toNat }
  | .subn x y => { x := x.toNat, y := y.toNat }
  | .shl x y => { x := x.toNat, y := y.toNat }
  | .sneR x y => { x := x.toNat, y := y.toNat }
  | .ldIndex nnn => { nnn := nnn.toNat }
  | .jpV0 nnn => { nnn := nnn.toNat }
  | .rnd x kk => { x := x.toNat, kk := kk.toNat }
  | .drw x y n => { x := x.toNat, y := y.toNat, n := n.toNat }
  | .skp x => { x := x.toNat }
  | .sknp x => { x := x.toNat }
  | .ldGetDT x => { x := x.toNat }
  | .ldKey x => { x := x.toNat }
  | .ldSetDT x => { x := x.toNat }
  | .ldSetST x => { x := x.toNat }
  | .addIndex x => { x := x.toNat }
  | .ldFont x => { x := x.toNat }
  | .ldBcd x => { x := x.toNat }
  | .ldStore x => { x := x.toNat }
  | .ldLoad x => { x := x.toNat }

/-- Is the instruction well-formed? Its format admits its operands. Every term of `Instr` is (its fields have the widths of
the encoding), so the check does its work on operands written as numbers: `Format.accepts`. -/
def Instr.wellFormed (i : Instr) : Bool := i.format.accepts i.fields

end Sys2Proof
end

