-- ==== Sys2Proof/Decode.lean ====
section
/-! DEFINITION. Decoding: the pure function from a 16-bit word to an instruction, by the two-level dispatch of
spec/30_encoding.md R64 and R66; the decoder over bytes (big-endian, spec/20_memory.md R47); the encoder of R61 and R62; and the
opcode table of R65 as rows of mask and match. -/

namespace Sys2Proof

/-- OP = op[15:12], the class (R61). -/
def fieldOP (w : Word) : Nibble := w.extractLsb' 12 4

/-- X = op[11:8] (R61). -/
def fieldX (w : Word) : Nibble := w.extractLsb' 8 4

/-- Y = op[7:4] (R61). -/
def fieldY (w : Word) : Nibble := w.extractLsb' 4 4

/-- N = op[3:0] (R61). -/
def fieldN (w : Word) : Nibble := w.extractLsb' 0 4

/-- KK = op[7:0] (R61). -/
def fieldKK (w : Word) : Byte := w.extractLsb' 0 8

/-- NNN = op[11:0] (R61). -/
def fieldNNN (w : Word) : Addr12 := w.extractLsb' 0 12

/-- Class 0 compares all 16 bits (R66, R67). -/
def decodeClass0 (w : Word) : Option Instr :=
  if w = 0x00E0#16 then some .cls
  else if w = 0x00EE#16 then some .ret
  else none

/-- Class 8 dispatches on N (R66); N = 8, 9, A, B, C, D, F are unknown (R66; spec/42_alu.md R114). -/
def decodeClass8 (w : Word) : Option Instr :=
  match (fieldN w).toNat with
  | 0x0 => some (.ldR (fieldX w) (fieldY w))
  | 0x1 => some (.orR (fieldX w) (fieldY w))
  | 0x2 => some (.andR (fieldX w) (fieldY w))
  | 0x3 => some (.xorR (fieldX w) (fieldY w))
  | 0x4 => some (.addR (fieldX w) (fieldY w))
  | 0x5 => some (.sub (fieldX w) (fieldY w))
  | 0x6 => some (.shr (fieldX w) (fieldY w))
  | 0x7 => some (.subn (fieldX w) (fieldY w))
  | 0xE => some (.shl (fieldX w) (fieldY w))
  | _ => none

/-- Class E dispatches on op[7:0] (R66). -/
def decodeClassE (w : Word) : Option Instr :=
  match (fieldKK w).toNat with
  | 0x9E => some (.skp (fieldX w))
  | 0xA1 => some (.sknp (fieldX w))
  | _ => none

/-- Class F dispatches on op[7:0] (R66). -/
def decodeClassF (w : Word) : Option Instr :=
  match (fieldKK w).toNat with
  | 0x07 => some (.ldGetDT (fieldX w))
  | 0x0A => some (.ldKey (fieldX w))
  | 0x15 => some (.ldSetDT (fieldX w))
  | 0x18 => some (.ldSetST (fieldX w))
  | 0x1E => some (.addIndex (fieldX w))
  | 0x29 => some (.ldFont (fieldX w))
  | 0x33 => some (.ldBcd (fieldX w))
  | 0x55 => some (.ldStore (fieldX w))
  | 0x65 => some (.ldLoad (fieldX w))
  | _ => none

/-- Decode one word (R64, R66; spec/40_step_cycle.md R82): the instruction with its field values, or none for an unknown opcode
(R68). First the class, then the second-level selector where the class has one. -/
def decodeWord (w : Word) : Option Instr :=
  match (fieldOP w).toNat with
  | 0x0 => decodeClass0 w
  | 0x1 => some (.jp (fieldNNN w))
  | 0x2 => some (.call (fieldNNN w))
  | 0x3 => some (.seI (fieldX w) (fieldKK w))
  | 0x4 => some (.sneI (fieldX w) (fieldKK w))
  | 0x5 => if fieldN w = 0x0#4 then some (.seR (fieldX w) (fieldY w)) else none
  | 0x6 => some (.ldI (fieldX w) (fieldKK w))
  | 0x7 => some (.addI (fieldX w) (fieldKK w))
  | 0x8 => decodeClass8 w
  | 0x9 => if fieldN w = 0x0#4 then some (.sneR (fieldX w) (fieldY w)) else none
  | 0xA => some (.ldIndex (fieldNNN w))
  | 0xB => some (.jpV0 (fieldNNN w))
  | 0xC => some (.rnd (fieldX w) (fieldKK w))
  | 0xD => some (.drw (fieldX w) (fieldY w) (fieldN w))
  | 0xE => decodeClassE w
  | 0xF => decodeClassF w
  | _ => none

/-- Why the decoder gives no instruction. -/
inductive DecodeReject where
  /-- The word matches no row of R65: an unknown opcode (R68). The Step runs it as spec/40_step_cycle.md R83 says. -/
  | unknownOpcode (w : Word)
  /-- Fewer than two bytes are left (R60: every instruction is exactly two bytes). -/
  | truncated
  deriving DecidableEq, Repr

/-- The word two bytes in memory order make: the first is op[15:8] (spec/20_memory.md R47). -/
def wordOfBytes (hi lo : Byte) : Word := hi ++ lo

/-- Decode the instruction at the front of a byte sequence, with the bytes after it (R60; spec/20_memory.md R47). -/
def decode : List Byte → Except DecodeReject (Instr × List Byte)
  | hi :: lo :: rest =>
    match decodeWord (wordOfBytes hi lo) with
    | some i => .ok (i, rest)
    | none => .error (.unknownOpcode (wordOfBytes hi lo))
  | _ => .error .truncated

/-- Format NNN: OP, then the 12-bit address (R62). -/
def encNNN (op : Nibble) (nnn : Addr12) : Word := op ++ nnn

/-- Format XKK: OP, X, then the byte (R62). -/
def encXKK (op x : Nibble) (kk : Byte) : Word := op ++ x ++ kk

/-- Formats XYS and XYN: OP, X, Y, and the sub-opcode or row count (R62). -/
def encXYN (op x y n : Nibble) : Word := op ++ x ++ y ++ n

/-- The word of an instruction, from the patterns of R65. -/
def encode : Instr → Word
  | .cls => 0x00E0#16
  | .ret => 0x00EE#16
  | .jp nnn => encNNN 0x1#4 nnn
  | .call nnn => encNNN 0x2#4 nnn
  | .seI x kk => encXKK 0x3#4 x kk
  | .sneI x kk => encXKK 0x4#4 x kk
  | .seR x y => encXYN 0x5#4 x y 0x0#4
  | .ldI x kk => encXKK 0x6#4 x kk
  | .addI x kk => encXKK 0x7#4 x kk
  | .ldR x y => encXYN 0x8#4 x y 0x0#4
  | .orR x y => encXYN 0x8#4 x y 0x1#4
  | .andR x y => encXYN 0x8#4 x y 0x2#4
  | .xorR x y => encXYN 0x8#4 x y 0x3#4
  | .addR x y => encXYN 0x8#4 x y 0x4#4
  | .sub x y => encXYN 0x8#4 x y 0x5#4
  | .shr x y => encXYN 0x8#4 x y 0x6#4
  | .subn x y => encXYN 0x8#4 x y 0x7#4
  | .shl x y => encXYN 0x8#4 x y 0xE#4
  | .sneR x y => encXYN 0x9#4 x y 0x0#4
  | .ldIndex nnn => encNNN 0xA#4 nnn
  | .jpV0 nnn => encNNN 0xB#4 nnn
  | .rnd x kk => encXKK 0xC#4 x kk
  | .drw x y n => encXYN 0xD#4 x y n
  | .skp x => encXKK 0xE#4 x 0x9E#8
  | .sknp x => encXKK 0xE#4 x 0xA1#8
  | .ldGetDT x => encXKK 0xF#4 x 0x07#8
  | .ldKey x => encXKK 0xF#4 x 0x0A#8
  | .ldSetDT x => encXKK 0xF#4 x 0x15#8
  | .ldSetST x => encXKK 0xF#4 x 0x18#8
  | .addIndex x => encXKK 0xF#4 x 0x1E#8
  | .ldFont x => encXKK 0xF#4 x 0x29#8
  | .ldBcd x => encXKK 0xF#4 x 0x33#8
  | .ldStore x => encXKK 0xF#4 x 0x55#8
  | .ldLoad x => encXKK 0xF#4 x 0x65#8

/-- The two bytes of a word as they lie in memory, the high byte first (spec/20_memory.md R47). -/
def bytesOfWord (w : Word) : List Byte := [w.extractLsb' 8 8, w.extractLsb' 0 8]

/-- The bytes of an instruction as they lie in memory. -/
def encodeBytes (i : Instr) : List Byte := bytesOfWord (encode i)

/-- The word the host numbers as spec/opcode_table.json does: one 16-bit word, bit 0 the least significant, every bit
above `nbits` zero. -/
def tableWord (nbits w : Nat) : Word := BitVec.ofNat 16 (w % 2 ^ nbits)

/-- What the decoder reads from an instruction whose bits are `w`, laid out in memory order (R60). -/
def decodeTableWord (nbits w : Nat) : Option Instr :=
  match decode (bytesOfWord (tableWord nbits w)) with
  | .ok (i, _) => some i
  | .error _ => none

/-- A row of the opcode table: the word `op` is this instruction exactly when `op & mask = code` (R65). -/
structure OpcodeRow where
  mnemonic : String
  mask     : Word
  code     : Word
  deriving DecidableEq, Repr

/-- Does the word match the row? (R65) -/
def OpcodeRow.covers (r : OpcodeRow) (w : Word) : Bool := w &&& r.mask == r.code

/-- Rows 1 to 12 of R65. -/
def opcodeRowsA : List OpcodeRow :=
  [⟨"CLS", 0xFFFF, 0x00E0⟩, ⟨"RET", 0xFFFF, 0x00EE⟩, ⟨"JP", 0xF000, 0x1000⟩, ⟨"CALL", 0xF000, 0x2000⟩,
   ⟨"SE_I", 0xF000, 0x3000⟩, ⟨"SNE_I", 0xF000, 0x4000⟩, ⟨"SE_R", 0xF00F, 0x5000⟩, ⟨"LD_I", 0xF000, 0x6000⟩,
   ⟨"ADD_I", 0xF000, 0x7000⟩, ⟨"LD_R", 0xF00F, 0x8000⟩, ⟨"OR", 0xF00F, 0x8001⟩, ⟨"AND", 0xF00F, 0x8002⟩]

/-- Rows 13 to 23 of R65. -/
def opcodeRowsB : List OpcodeRow :=
  [⟨"XOR", 0xF00F, 0x8003⟩, ⟨"ADD_R", 0xF00F, 0x8004⟩, ⟨"SUB", 0xF00F, 0x8005⟩, ⟨"SHR", 0xF00F, 0x8006⟩,
   ⟨"SUBN", 0xF00F, 0x8007⟩, ⟨"SHL", 0xF00F, 0x800E⟩, ⟨"SNE_R", 0xF00F, 0x9000⟩, ⟨"LD_INDEX", 0xF000, 0xA000⟩,
   ⟨"JP_V0", 0xF000, 0xB000⟩, ⟨"RND", 0xF000, 0xC000⟩, ⟨"DRW", 0xF000, 0xD000⟩]

/-- Rows 24 to 34 of R65. -/
def opcodeRowsC : List OpcodeRow :=
  [⟨"SKP", 0xF0FF, 0xE09E⟩, ⟨"SKNP", 0xF0FF, 0xE0A1⟩, ⟨"LD_GETDT", 0xF0FF, 0xF007⟩, ⟨"LD_KEY", 0xF0FF, 0xF00A⟩,
   ⟨"LD_SETDT", 0xF0FF, 0xF015⟩, ⟨"LD_SETST", 0xF0FF, 0xF018⟩, ⟨"ADD_INDEX", 0xF0FF, 0xF01E⟩, ⟨"LD_FONT", 0xF0FF, 0xF029⟩,
   ⟨"LD_BCD", 0xF0FF, 0xF033⟩, ⟨"LD_STORE", 0xF0FF, 0xF055⟩, ⟨"LD_LOAD", 0xF0FF, 0xF065⟩]

/-- The opcode table of R65, written beside the decoder and not used by it: the statements compare the two. -/
def opcodeTable : List OpcodeRow := opcodeRowsA ++ opcodeRowsB ++ opcodeRowsC

end Sys2Proof
end

