-- ==== Sys2Proof/Config.lean ====
section
/-! DEFINITION. What is fixed for a machine and does not change as it runs: the fixed sizes (spec/00_scope.md R4), the open
parameters FONT_BASE, FONT and SHIFT_SRC (R5), and the free stream of random bytes (spec/42_alu.md R115). -/

namespace Sys2Proof

/-- MEM_SIZE: bytes of memory, addresses 0x000 to 0xFFF (R4). -/
abbrev memSize : Nat := 4096

/-- PROG_BASE: the first address of the program region (R4). -/
abbrev progBase : Nat := 0x200

/-- PROG_MAX: the largest program (R4). -/
abbrev progMax : Nat := 3584

/-- STACK_DEPTH: return addresses the call stack holds (R4). -/
abbrev stackDepth : Nat := 16

/-- FB_W: framebuffer width in pixels (R4). -/
abbrev fbWidth : Nat := 64

/-- FB_H: framebuffer height in pixels (R4). -/
abbrev fbHeight : Nat := 32

/-- The parameter SHIFT_SRC: which register 8XY6 and 8XYE shift (R5; spec/42_alu.md R113). -/
inductive ShiftSrc where
  | vx
  | vy
  deriving DecidableEq, Repr

/-- The open parameters of R5, taken as plain data so that every statement about every state holds for every value of them.
`fontBase` runs over 0 ≤ FONT_BASE with FONT_BASE + 80 ≤ 0x200, that is 0..432. -/
structure Config where
  fontBase : Fin 433
  font     : Vector Byte 80
  shiftSrc : ShiftSrc
  deriving DecidableEq, Repr

/-- The random bytes of the outside world: the n-th byte drawn. It has no body: nothing can be proved of a value of it
(R115: no generator, no seed, no period, no distribution; spec/93_implementation_defined.md U6: any value). Log 2. -/
opaque Config.freeRnd : Nat → Byte

end Sys2Proof
end

