-- ==== Sys2Proof/Machine/Params.lean ====
section
/-! DEFINITION. The default values of the open parameters (spec/00_scope.md R5), which State.reset takes. The spec leaves the
parameters open; no statement about every state rests on these defaults. Log 1. -/

namespace Sys2Proof.Machine

/-- The default FONT_BASE, 0x050 (R5; spec/92_eei_decisions.md D2). DESIGN CHOICE, log 1. -/
def defaultFontBase : Fin 433 := 0x050

/-- Glyphs 0 to 7 of the default FONT (spec/10_state.md R24). -/
def defaultGlyphsLow : List Byte :=
  [0xF0, 0x90, 0x90, 0x90, 0xF0, 0x20, 0x60, 0x20, 0x20, 0x70,
   0xF0, 0x10, 0xF0, 0x80, 0xF0, 0xF0, 0x10, 0xF0, 0x10, 0xF0,
   0x90, 0x90, 0xF0, 0x10, 0x10, 0xF0, 0x80, 0xF0, 0x10, 0xF0,
   0xF0, 0x80, 0xF0, 0x90, 0xF0, 0xF0, 0x10, 0x20, 0x40, 0x40]

/-- Glyphs 8 to F of the default FONT (spec/10_state.md R24). -/
def defaultGlyphsHigh : List Byte :=
  [0xF0, 0x90, 0xF0, 0x90, 0xF0, 0xF0, 0x90, 0xF0, 0x10, 0xF0,
   0xF0, 0x90, 0xF0, 0x90, 0x90, 0xE0, 0x90, 0xE0, 0x90, 0xE0,
   0xF0, 0x80, 0x80, 0x80, 0xF0, 0xE0, 0x90, 0x90, 0x90, 0xE0,
   0xF0, 0x80, 0xF0, 0x80, 0xF0, 0xF0, 0x80, 0xF0, 0x80, 0x80]

/-- The default FONT, 80 bytes (spec/10_state.md R24; spec/92_eei_decisions.md D3). DESIGN CHOICE, log 1. -/
def defaultFont : Vector Byte 80 := ⟨(defaultGlyphsLow ++ defaultGlyphsHigh).toArray, rfl⟩

/-- The default SHIFT_SRC, VX (R5; spec/92_eei_decisions.md D4). DESIGN CHOICE, log 1. -/
def defaultShiftSrc : ShiftSrc := .vx

/-- The default parameters. -/
def defaultConfig : Config :=
  { fontBase := defaultFontBase, font := defaultFont, shiftSrc := defaultShiftSrc }

end Sys2Proof.Machine
end

