-- ==== Sys2Proof/Machine/State.lean ====
section
/-! DEFINITION. The state of the block: exactly the cells of spec/10_state.md section 1, with three fields of the model's own
(`cfg`, `rndIn`, `draws`: log 1, log 2); the reset state of spec/70_reset_and_hazards.md R200; and the reasons a step could stop. -/

namespace Sys2Proof.Machine

/-- ERR, the fatal error latch (spec/10_state.md R30): none, or the first fatal error since Reset. Its 2-bit code is
`ErrCode.code`. -/
inductive ErrCode where
  | none
  | stackOverflow
  | stackUnderflow
  | addressFault
  deriving DecidableEq, Repr

/-- MEM as the bytes that differ from what Reset leaves there: address and byte, addresses strictly rising, no entry equal
to what an unlisted address reads as (`resetByte`; log 8). `Memory.wf` is that form. -/
abbrev Memory := List Host.Cell

/-- FB, 32 rows of 64 pixels: FB[y][x] is the pixel in column x of row y, true when set (spec/10_state.md R25). -/
abbrev Framebuffer := Vector (Vector Bool 64) 32

/-- The state. Each field but the last three is a cell of spec/10_state.md section 1. -/
structure State where
  /-- V0..VF (R10). -/
  v     : Vector Byte 16
  /-- The index register I (R13). -/
  i     : Word
  /-- The program counter (R14). -/
  pc    : Word
  /-- The depth counter SP, 0..16 (R18, R19). -/
  sp    : Fin 17
  /-- STACK[0..15] (R18). -/
  stack : Vector Word 16
  /-- The delay timer DT (R20). -/
  dt    : Byte
  /-- The sound timer ST (R20). -/
  st    : Byte
  /-- MEM (R21 to R24). -/
  mem   : Memory
  /-- FB (R25). -/
  fb    : Framebuffer
  /-- The input latch KEY[0..15], true when pressed (R27). -/
  key   : Vector Bool 16
  /-- The redraw flag DRAWF (R26). -/
  drawf : Bool
  /-- Sound pending SNDP (R28). -/
  sndp  : Bool
  /-- Awaiting key press AWAIT (R29). -/
  await : Bool
  /-- The fatal error latch ERR (R30). -/
  err   : ErrCode
  /-- The model's own: the open parameters of spec/00_scope.md R5. No step and no command changes them (log 1). -/
  cfg   : Config
  /-- The model's own: the `rnd` input of the Step under way, where the host's command gave one; with none the byte is
  free (spec/42_alu.md R115; log 2). -/
  rndIn : Option Byte
  /-- The model's own: how many bytes were drawn from `Config.freeRnd` (log 2). -/
  draws : Nat
  deriving DecidableEq, Repr

/-- Why a step would stop with a fault: never. The spec gives every Step a next state (spec/40_step_cycle.md R80: exactly one
of five outcomes, each of them a state): its fatal errors are latched in ERR and the block is halted, not stopped
(spec/60_exceptions.md R172, R173), and an access outside memory is such an error, tested before it is made
(spec/20_memory.md R44). No constructor: nobody raises a fault (log 4). -/
inductive Fault where
  deriving DecidableEq, Repr

/-- Why a step would give an instruction no meaning. -/
inductive Refusal where
  /-- An instruction with no meaning yet, by its name in spec/opcode_table.json. Raised by an arm of `exec` only; no arm
  does now, since every instruction has its meaning. Safe: nothing can be proved of a state after it. -/
  | notModelled (mnemonic : String)
  deriving DecidableEq, Repr

/-- The state Reset leaves, for given parameters (spec/70_reset_and_hazards.md R200): every cell zero, but pc = 0x200
(spec/10_state.md R14), and memory at its reset contents (nothing listed: R21, R23). `rndIn` and `draws` are the model's own:
DESIGN CHOICE none and 0, log 2. -/
def State.resetWith (c : Config) : State :=
  { v := Vector.replicate 16 0
    i := 0
    pc := 0x200
    sp := 0
    stack := Vector.replicate 16 0
    dt := 0
    st := 0
    mem := []
    fb := Vector.replicate 32 (Vector.replicate 64 false)
    key := Vector.replicate 16 false
    drawf := false
    sndp := false
    await := false
    err := .none
    cfg := c
    rndIn := none
    draws := 0 }

/-- The machine right after reset, with the default parameters (log 1). -/
def State.reset : State := State.resetWith defaultConfig

end Sys2Proof.Machine
end

