-- ==== Sys2Proof/Machine/Ops.lean ====
section
/-! DEFINITION. The named operations over the state: registers, memory, stack, framebuffer, input latch, program counter, the
random input, and `raise`, the one operation that takes a fatal error (spec/60_exceptions.md R172). There is no return from
a fatal error: only Reset leaves the halted condition (R173), and that is `State.resetCommand` in HostCmd.lean. -/

namespace Sys2Proof.Machine

/-! ### Outcomes -/

/-- The next state of an instruction, changed by what the Step does after it; a fault or a refusal is passed on. -/
def onNext (f : State → State) : Host.Outcome State Fault Refusal → Host.Outcome State Fault Refusal
  | .next t => .next (f t)
  | .fault r => .fault r
  | .refused r => .refused r

/-! ### General registers and the index register (spec/10_state.md R10 to R13) -/

/-- V[r]. -/
def State.reg (s : State) (r : Nibble) : Byte := s.v[r.toNat]'r.isLt

/-- V[r] <- b. -/
def State.setReg (s : State) (r : Nibble) (b : Byte) : State := { s with v := s.v.set r.toNat b r.isLt }

/-- I <- w. -/
def State.setIndex (s : State) (w : Word) : State := { s with i := w }

/-- The bytes `bs` into V[j], V[j+1], ...: the loop of FX65 (spec/43_index_memory.md R125). -/
def State.loadRegs (s : State) : Nat → List Byte → State
  | _, [] => s
  | j, b :: bs => State.loadRegs (s.setReg (BitVec.ofNat 4 j) b) (j + 1) bs

/-! ### Program counter (spec/10_state.md R14, R15) -/

/-- pc <- w. -/
def State.setPc (s : State) (w : Word) : State := { s with pc := w }

/-- pc <- pc + n. From a pc that passed the fetch check the sum stays far below 2^16 (R17; log 7). -/
def State.advance (s : State) (n : Nat) : State := { s with pc := s.pc + BitVec.ofNat 16 n }

/-! ### Fatal errors (spec/60_exceptions.md R172) -/

/-- The two-bit code of ERR (spec/10_state.md R30). -/
def ErrCode.code : ErrCode → BitVec 2
  | .none => 0
  | .stackOverflow => 1
  | .stackUnderflow => 2
  | .addressFault => 3

/-- Take a fatal error: ERR <- its code, AWAIT <- 0, and nothing else; pc keeps the address of the faulting instruction
(R172). -/
def State.raise (s : State) (e : ErrCode) : State := { s with err := e, await := false }

/-! ### Call stack (spec/10_state.md R18, R19) -/

/-- STACK[j], for j below 16. -/
def State.stackAt (s : State) (j : Nat) : Word := if h : j < 16 then s.stack[j] else 0

/-- Push: STACK[SP] <- w, then SP <- SP + 1; none when SP = 16. -/
def State.push (s : State) (w : Word) : Option State :=
  if h : s.sp.val < 16 then
    some { s with stack := s.stack.set s.sp.val w h, sp := ⟨s.sp.val + 1, by omega⟩ }
  else none

/-- Pop: SP <- SP - 1 and the value of STACK[SP]; none when SP = 0. The popped cell keeps its value. -/
def State.pop (s : State) : Option (Word × State) :=
  if h : 0 < s.sp.val then
    some (s.stack[s.sp.val - 1]'(by omega), { s with sp := ⟨s.sp.val - 1, by omega⟩ })
  else none

/-! ### Timers (spec/10_state.md R20) -/

/-- DT <- b. -/
def State.setDT (s : State) (b : Byte) : State := { s with dt := b }

/-- ST <- b. -/
def State.setST (s : State) (b : Byte) : State := { s with st := b }

/-! ### Memory (spec/20_memory.md) -/

/-- What Reset leaves at an address: FONT[j] at FONT_BASE + j for j = 0..79, zero elsewhere (spec/10_state.md R21, R23). It is
what an address not listed in `State.mem` reads as. -/
def resetByte (c : Config) (a : Nat) : Byte :=
  if h : c.fontBase.val ≤ a ∧ a < c.fontBase.val + 80 then c.font[a - c.fontBase.val]'(by omega) else 0

/-- The listed byte at an address. -/
def Memory.find : Memory → Nat → Option Byte
  | [], _ => none
  | (k, b) :: m, a => if k = a then some b else Memory.find m a

/-- MemRead (R41): the listed byte, else the reset contents. It changes nothing. -/
def Memory.read (c : Config) (m : Memory) (a : Nat) : Byte := (m.find a).getD (resetByte c a)

/-- Take every entry for an address out of the list. -/
def Memory.drop : Memory → Nat → Memory
  | [], _ => []
  | (k, b) :: m, a => if k = a then Memory.drop m a else (k, b) :: Memory.drop m a

/-- Put an address and its byte into the list, keeping the addresses rising. -/
def Memory.put : Memory → Nat → Byte → Memory
  | [], a, b => [(a, b)]
  | (k, x) :: m, a, b =>
    if a < k then (a, b) :: (k, x) :: m
    else if a = k then (a, b) :: m
    else (k, x) :: Memory.put m a b

/-- MemWrite (R42): the byte at one address, nothing else. Writing the reset contents takes the entry out, so that equal
memories are equal lists. -/
def Memory.write (c : Config) (m : Memory) (a : Nat) (b : Byte) : Memory :=
  if b = resetByte c a then m.drop a else m.put a b

/-- The bytes `bs` to the addresses a, a + 1, ..., in that order. -/
def Memory.writeAll (c : Config) : Memory → Nat → List Byte → Memory
  | m, _, [] => m
  | m, a, b :: bs => Memory.writeAll c (m.write c a b) (a + 1) bs

/-- The canonical form: addresses strictly rising, inside memory, and no entry equal to the reset contents. -/
abbrev Memory.wf (c : Config) (m : Memory) : Prop :=
  m.Pairwise (fun p q => p.1 < q.1) ∧ ∀ p ∈ m, p.1 < memSize ∧ p.2 ≠ resetByte c p.1

/-- MEM[a]. -/
def State.byte (s : State) (a : Nat) : Byte := s.mem.read s.cfg a

/-- Are all the addresses a .. a + n - 1 in memory? With n = 0 no address is touched (R44). Addresses are unbounded
integers, never wrapped (R43). -/
def inMemory (a n : Nat) : Bool := n == 0 || decide (a + n ≤ memSize)

/-- The n bytes from address a, or none when one of them lies outside memory: the test is made once, before any
access (R44). -/
def State.loadBytes (s : State) (a n : Nat) : Option (List Byte) :=
  if inMemory a n then some ((List.range n).map fun j => s.byte (a + j)) else none

/-- Store bytes from address a on, or none, with nothing stored, when one of them would lie outside memory (R44). -/
def State.storeBytes (s : State) (a : Nat) (bs : List Byte) : Option State :=
  if inMemory a bs.length then some { s with mem := s.mem.writeAll s.cfg a bs } else none

/-! ### Framebuffer and redraw flag (spec/10_state.md R25, R26) -/

/-- FB[y][x]. -/
def Framebuffer.pixel (fb : Framebuffer) (x : Fin 64) (y : Fin 32) : Bool := (fb[y.val]'y.isLt)[x.val]'x.isLt

/-- FB[y][x] <- FB[y][x] ^ 1. -/
def Framebuffer.flip (fb : Framebuffer) (x : Fin 64) (y : Fin 32) : Framebuffer :=
  fb.set y.val ((fb[y.val]'y.isLt).set x.val (!fb.pixel x y) x.isLt) y.isLt

/-- FB with every pixel 0. -/
def Framebuffer.blank : Framebuffer := Vector.replicate 32 (Vector.replicate 64 false)

/-- The pixel FB[y][x] of the state. -/
def State.pixel (s : State) (x : Fin 64) (y : Fin 32) : Bool := s.fb.pixel x y

/-- FB <- fb and DRAWF <- 1: what the two framebuffer instructions do to the display (R26). -/
def State.setDisplay (s : State) (fb : Framebuffer) : State := { s with fb := fb, drawf := true }

/-! ### Input latch (spec/10_state.md R27) -/

/-- KEY[k]. -/
def State.keyDown (s : State) (k : Nibble) : Bool := s.key[k.toNat]'k.isLt

/-- KEY[k] <- p. -/
def State.setKeyBit (s : State) (k : Nibble) (p : Bool) : State := { s with key := s.key.set k.toNat p k.isLt }

/-- The smallest k with KEY[k] = 1, or none when every key is released (spec/45_timers_keys.md R146, R147). -/
def State.firstKey (s : State) : Option Nibble :=
  ((List.range 16).map (BitVec.ofNat 4)).find? fun k => s.keyDown k

/-! ### The random input (spec/42_alu.md R115) -/

/-- `rnd`: the byte the host's Step command gave, or else a free byte (log 2). -/
def State.rndByte (s : State) : Byte := s.rndIn.getD (Config.freeRnd s.draws)

/-- The input byte is used up: the next one is a fresh draw (spec/93_implementation_defined.md U6; log 2). -/
def State.takeRnd (s : State) : State := { s with rndIn := none, draws := s.draws + 1 }

end Sys2Proof.Machine
end

