-- ==== Sys2Proof/Machine/Operands.lean ====
section
/-! DEFINITION. The operand forms: immediates, jump targets, the shift source, the low hex digit, the effective address I + j,
the block V0..VX, decimal digits, and sprite coordinates. -/

namespace Sys2Proof.Machine

/-- NNN zero-extended to 16 bits: an absolute address for pc or I (spec/30_encoding.md R63). -/
def addrOperand (nnn : Addr12) : Word := nnn.setWidth 16

/-- The target of BNNN: NNN + V0, 0..0x10FE, not reduced to 12 bits (spec/41_control_flow.md R93). -/
def jumpV0Target (s : State) (nnn : Addr12) : Word := BitVec.ofNat 16 (nnn.toNat + (s.reg 0).toNat)

/-- The value 8XY6 and 8XYE shift: V[X] or V[Y] as the parameter SHIFT_SRC says (spec/42_alu.md R113). -/
def shiftOperand (s : State) (x y : Nibble) : Byte :=
  match s.cfg.shiftSrc with
  | .vx => s.reg x
  | .vy => s.reg y

/-- The low hex digit of a register value: the glyph of FX29 (spec/43_index_memory.md R122) and the key of EX9E and EXA1
(spec/45_timers_keys.md R145). -/
def lowDigit (b : Byte) : Nibble := b.setWidth 4

/-- The address of a glyph: FONT_BASE + 5 * d (spec/43_index_memory.md R122; spec/10_state.md R23). -/
def glyphAddr (c : Config) (d : Nibble) : Word := BitVec.ofNat 16 (c.fontBase.val + 5 * d.toNat)

/-- The base of every data access: I as an integer, so that I + j is never wrapped (spec/20_memory.md R43). -/
def State.indexAddr (s : State) : Nat := s.i.toNat

/-- The registers V0..VX, V0 first (spec/43_index_memory.md R124). -/
def regBlock (s : State) (x : Nibble) : List Byte :=
  (List.range (x.toNat + 1)).map fun j => s.reg (BitVec.ofNat 4 j)

/-- The decimal digits of a byte: hundreds, tens, ones (spec/43_index_memory.md R123). -/
def decimalDigits (b : Byte) : List Byte :=
  [BitVec.ofNat 8 (b.toNat / 100), BitVec.ofNat 8 (b.toNat / 10 % 10), BitVec.ofNat 8 (b.toNat % 10)]

/-- The column a sprite's column lands in: (VX + col) mod 64 (spec/44_display.md R132). -/
def wrapX (x0 : Byte) (col : Nat) : Fin 64 := Fin.ofNat 64 (x0.toNat + col)

/-- The row a sprite's row lands in: (VY + row) mod 32 (spec/44_display.md R132). -/
def wrapY (y0 : Byte) (row : Nat) : Fin 32 := Fin.ofNat 32 (y0.toNat + row)

end Sys2Proof.Machine
end

