-- ==== Sys2Proof/Machine/Flags.lean ====
section
/-! DEFINITION. The results and flags of the arithmetic: exact on integers, then narrowed; and the VF-last rule
(spec/42_alu.md R100, R101). VF is the only flag; each flag write is exactly 0 or 1 (spec/10_state.md R12). -/

namespace Sys2Proof.Machine

/-- VF, the register the flags go to (spec/10_state.md R12). -/
abbrev regF : Nibble := 0xF

/-- The byte a flag write stores: 1 or 0 (spec/10_state.md R12). -/
def flagByte (b : Bool) : Byte := if b then 1 else 0

/-- (a + b) mod 256 (spec/42_alu.md R100). -/
def sumByte (a b : Byte) : Byte := BitVec.ofNat 8 (a.toNat + b.toNat)

/-- Carry: the unsigned sum exceeds 255 (spec/42_alu.md R108). -/
def carryOut (a b : Byte) : Bool := decide (a.toNat + b.toNat > 255)

/-- (a - b) mod 256, which is a - b + 256 when a < b (spec/42_alu.md R100). -/
def diffByte (a b : Byte) : Byte := BitVec.ofNat 8 (a.toNat + 256 - b.toNat)

/-- No borrow in a - b: a ≥ b (spec/42_alu.md R109, R111). -/
def noBorrow (a b : Byte) : Bool := decide (a.toNat ≥ b.toNat)

/-- s div 2: a logical shift right by one (spec/42_alu.md R110). -/
def halfByte (b : Byte) : Byte := BitVec.ofNat 8 (b.toNat / 2)

/-- The bit a right shift shifts out: bit 0 (spec/42_alu.md R110). -/
def lowBit (b : Byte) : Bool := b.getLsbD 0

/-- (s * 2) mod 256: a shift left by one (spec/42_alu.md R112). -/
def doubleByte (b : Byte) : Byte := BitVec.ofNat 8 (b.toNat * 2)

/-- The bit a left shift shifts out: bit 7 (spec/42_alu.md R112). -/
def highBit (b : Byte) : Bool := b.getLsbD 7

/-- (I + VX) mod 65536 (spec/43_index_memory.md R121). -/
def indexSum (i : Word) (b : Byte) : Word := BitVec.ofNat 16 (i.toNat + b.toNat)

/-- The flag of FX1E: the unreduced sum I + VX exceeds 0xFFF (spec/43_index_memory.md R121). -/
def indexOut (i : Word) (b : Byte) : Bool := decide (i.toNat + b.toNat > 0xFFF)

/-- V[X] <- result, then VF <- flag: in this order, so that the flag wins when X = 15 (spec/42_alu.md R101). -/
def State.setRegFlag (s : State) (x : Nibble) (result : Byte) (flag : Bool) : State :=
  (s.setReg x result).setReg regF (flagByte flag)

end Sys2Proof.Machine
end

