-- ==== Sys2Proof/Machine/Alu.lean ====
section
/-! DEFINITION. Register loads, arithmetic, logic, shifts and the random byte (spec/42_alu.md). Each writes V[X], VF where
stated, and pc + 2, and nothing else. -/

namespace Sys2Proof.Machine

/-- 6XKK LD (spec/42_alu.md R102). -/
def execLdI (x : Nibble) (kk : Byte) (s : State) : Host.Outcome State Fault Refusal :=
  .next ((s.setReg x kk).advance 2)

/-- 7XKK ADD (R103): wraps, no flag. -/
def execAddI (x : Nibble) (kk : Byte) (s : State) : Host.Outcome State Fault Refusal :=
  .next ((s.setReg x (sumByte (s.reg x) kk)).advance 2)

/-- 8XY0 LD (R104). -/
def execLdR (x y : Nibble) (s : State) : Host.Outcome State Fault Refusal :=
  .next ((s.setReg x (s.reg y)).advance 2)

/-- 8XY1 OR (R105): VF is not written unless X = 15. -/
def execOrR (x y : Nibble) (s : State) : Host.Outcome State Fault Refusal :=
  .next ((s.setReg x (s.reg x ||| s.reg y)).advance 2)

/-- 8XY2 AND (R106). -/
def execAndR (x y : Nibble) (s : State) : Host.Outcome State Fault Refusal :=
  .next ((s.setReg x (s.reg x &&& s.reg y)).advance 2)

/-- 8XY3 XOR (R107). -/
def execXorR (x y : Nibble) (s : State) : Host.Outcome State Fault Refusal :=
  .next ((s.setReg x (s.reg x ^^^ s.reg y)).advance 2)

/-- 8XY4 ADD (R108): VF = carry. -/
def execAddR (x y : Nibble) (s : State) : Host.Outcome State Fault Refusal :=
  .next ((s.setRegFlag x (sumByte (s.reg x) (s.reg y)) (carryOut (s.reg x) (s.reg y))).advance 2)

/-- 8XY5 SUB (R109): VX - VY, VF = no borrow. -/
def execSub (x y : Nibble) (s : State) : Host.Outcome State Fault Refusal :=
  .next ((s.setRegFlag x (diffByte (s.reg x) (s.reg y)) (noBorrow (s.reg x) (s.reg y))).advance 2)

/-- 8XY6 SHR (R110, R113): VF = the bit shifted out. -/
def execShr (x y : Nibble) (s : State) : Host.Outcome State Fault Refusal :=
  .next ((s.setRegFlag x (halfByte (shiftOperand s x y)) (lowBit (shiftOperand s x y))).advance 2)

/-- 8XY7 SUBN (R111): VY - VX, VF = no borrow. -/
def execSubn (x y : Nibble) (s : State) : Host.Outcome State Fault Refusal :=
  .next ((s.setRegFlag x (diffByte (s.reg y) (s.reg x)) (noBorrow (s.reg y) (s.reg x))).advance 2)

/-- 8XYE SHL (R112, R113): VF = the bit shifted out. -/
def execShl (x y : Nibble) (s : State) : Host.Outcome State Fault Refusal :=
  .next ((s.setRegFlag x (doubleByte (shiftOperand s x y)) (highBit (shiftOperand s x y))).advance 2)

/-- CXKK RND (R115, R116): V[X] <- rnd & KK; the input byte is then used up (log 2). -/
def execRnd (x : Nibble) (kk : Byte) (s : State) : Host.Outcome State Fault Refusal :=
  .next ((s.setReg x (s.rndByte &&& kk)).takeRnd.advance 2)

end Sys2Proof.Machine
end

