-- ==== Sys2Proof/Machine/Control.lean ====
section
/-! DEFINITION. Control transfer: return, jumps, call and the register skips (spec/41_control_flow.md). No register, I, timer,
memory byte or pixel is written, and VF is not. -/

namespace Sys2Proof.Machine

/-- A skip: pc + 4 when the condition holds, pc + 2 when not (spec/41_control_flow.md section 2). -/
def skipIf (c : Bool) (s : State) : State := s.advance (if c then 4 else 2)

/-- 00EE RET (spec/41_control_flow.md R90): StackUnderflow at SP = 0, else pop the address of the CALL and go 2 past it. -/
def execRet (s : State) : Host.Outcome State Fault Refusal :=
  match s.pop with
  | none => .next (s.raise .stackUnderflow)
  | some (t, u) => .next (u.setPc (t + 2))

/-- 1NNN JP (R91): pc <- NNN. -/
def execJp (nnn : Addr12) (s : State) : Host.Outcome State Fault Refusal :=
  .next (s.setPc (addrOperand nnn))

/-- 2NNN CALL (R92): StackOverflow at SP = 16, tested before the push; else push this instruction's own address. -/
def execCall (nnn : Addr12) (s : State) : Host.Outcome State Fault Refusal :=
  match s.push s.pc with
  | none => .next (s.raise .stackOverflow)
  | some u => .next (u.setPc (addrOperand nnn))

/-- BNNN JP V0 (R93): pc <- NNN + V0. -/
def execJpV0 (nnn : Addr12) (s : State) : Host.Outcome State Fault Refusal :=
  .next (s.setPc (jumpV0Target s nnn))

/-- 3XKK SE (R94). -/
def execSeI (x : Nibble) (kk : Byte) (s : State) : Host.Outcome State Fault Refusal :=
  .next (skipIf (s.reg x == kk) s)

/-- 4XKK SNE (R95). -/
def execSneI (x : Nibble) (kk : Byte) (s : State) : Host.Outcome State Fault Refusal :=
  .next (skipIf (s.reg x != kk) s)

/-- 5XY0 SE (R96). -/
def execSeR (x y : Nibble) (s : State) : Host.Outcome State Fault Refusal :=
  .next (skipIf (s.reg x == s.reg y) s)

/-- 9XY0 SNE (R97). -/
def execSneR (x y : Nibble) (s : State) : Host.Outcome State Fault Refusal :=
  .next (skipIf (s.reg x != s.reg y) s)

end Sys2Proof.Machine
end

