-- ==== Sys2Proof/Machine/Display.lean ====
section
/-! DEFINITION. The framebuffer instructions: clear and XOR-blit draw (spec/44_display.md). -/

namespace Sys2Proof.Machine

/-- A draw under way: the framebuffer so far, and whether a set pixel was unset (`hit`). -/
abbrev Canvas := Framebuffer × Bool

/-- One pixel of a sprite: a source bit 0 leaves it alone; a source bit 1 flips it and reports a collision when it was set
(spec/44_display.md R131). -/
def drawPixel (bit : Bool) (x : Fin 64) (y : Fin 32) (d : Canvas) : Canvas :=
  if bit then (d.1.flip x y, d.2 || d.1.pixel x y) else d

/-- One sprite row, columns 0 to 7, the most significant bit leftmost (R131, R132). -/
def drawRow (b : Byte) (x0 : Byte) (y : Fin 32) (d : Canvas) : Canvas :=
  (List.range 8).foldl (fun d col => drawPixel (b.getLsbD (7 - col)) (wrapX x0 col) y d) d

/-- The sprite's rows from row number `row` on, top row first (R131, R132). -/
def drawRows (x0 y0 : Byte) : Nat → List Byte → Canvas → Canvas
  | _, [], d => d
  | row, b :: bs, d => drawRows x0 y0 (row + 1) bs (drawRow b x0 (wrapY y0 row) d)

/-- The whole sprite onto a framebuffer, with no collision yet (R131: hit <- 0). -/
def drawSprite (fb : Framebuffer) (x0 y0 : Byte) (bs : List Byte) : Canvas := drawRows x0 y0 0 bs (fb, false)

/-- 00E0 CLS (spec/44_display.md R130). -/
def execCls (s : State) : Host.Outcome State Fault Refusal :=
  .next ((s.setDisplay Framebuffer.blank).advance 2)

/-- DXYN DRW (R131 to R134): the coordinates are read before VF is written; with N = 0 nothing is read and nothing can
fault. -/
def execDrw (x y n : Nibble) (s : State) : Host.Outcome State Fault Refusal :=
  match s.loadBytes s.indexAddr n.toNat with
  | none => .next (s.raise .addressFault)
  | some bs =>
    let d := drawSprite s.fb (s.reg x) (s.reg y) bs
    .next (((s.setDisplay d.1).setReg regF (flagByte d.2)).advance 2)

end Sys2Proof.Machine
end

