-- ==== Sys2Proof/Machine/IndexMem.lean ====
section
/-! DEFINITION. The index register and the memory transfers (spec/43_index_memory.md). FX33, FX55 and FX65 leave I unchanged
(R126); an access that would leave memory raises AddressFault and transfers nothing (spec/20_memory.md R44). -/

namespace Sys2Proof.Machine

/-- ANNN LD I (spec/43_index_memory.md R120). -/
def execLdIndex (nnn : Addr12) (s : State) : Host.Outcome State Fault Refusal :=
  .next ((s.setIndex (addrOperand nnn)).advance 2)

/-- FX1E ADD I (R121): I <- (I + VX) mod 65536, VF <- the unreduced sum exceeds 0xFFF. -/
def execAddIndex (x : Nibble) (s : State) : Host.Outcome State Fault Refusal :=
  .next (((s.setIndex (indexSum s.i (s.reg x))).setReg regF (flagByte (indexOut s.i (s.reg x)))).advance 2)

/-- FX29 LD F (R122): I <- the address of the glyph of the low hex digit; no memory is read. -/
def execLdFont (x : Nibble) (s : State) : Host.Outcome State Fault Refusal :=
  .next ((s.setIndex (glyphAddr s.cfg (lowDigit (s.reg x)))).advance 2)

/-- FX33 LD B (R123): hundreds, tens and ones of VX to I, I + 1, I + 2. -/
def execLdBcd (x : Nibble) (s : State) : Host.Outcome State Fault Refusal :=
  match s.storeBytes s.indexAddr (decimalDigits (s.reg x)) with
  | none => .next (s.raise .addressFault)
  | some u => .next (u.advance 2)

/-- FX55 LD [I] (R124): V0..VX to I .. I + X. -/
def execLdStore (x : Nibble) (s : State) : Host.Outcome State Fault Refusal :=
  match s.storeBytes s.indexAddr (regBlock s x) with
  | none => .next (s.raise .addressFault)
  | some u => .next (u.advance 2)

/-- FX65 LD (R125): I .. I + X to V0..VX. -/
def execLdLoad (x : Nibble) (s : State) : Host.Outcome State Fault Refusal :=
  match s.loadBytes s.indexAddr (x.toNat + 1) with
  | none => .next (s.raise .addressFault)
  | some bs => .next ((s.loadRegs 0 bs).advance 2)

end Sys2Proof.Machine
end

