-- ==== Sys2Proof/Machine/TimersKeys.lean ====
section
/-! DEFINITION. Timer access and key instructions (spec/45_timers_keys.md). The countdown itself is the Tick command, in
HostCmd.lean. -/

namespace Sys2Proof.Machine

/-- FX07 LD Vx, DT (spec/45_timers_keys.md R140). -/
def execLdGetDT (x : Nibble) (s : State) : Host.Outcome State Fault Refusal :=
  .next ((s.setReg x s.dt).advance 2)

/-- FX15 LD DT, Vx (R141). -/
def execLdSetDT (x : Nibble) (s : State) : Host.Outcome State Fault Refusal :=
  .next ((s.setDT (s.reg x)).advance 2)

/-- FX18 LD ST, Vx (R142): SNDP is not touched. -/
def execLdSetST (x : Nibble) (s : State) : Host.Outcome State Fault Refusal :=
  .next ((s.setST (s.reg x)).advance 2)

/-- EX9E SKP (R143, R145). -/
def execSkp (x : Nibble) (s : State) : Host.Outcome State Fault Refusal :=
  .next (skipIf (s.keyDown (lowDigit (s.reg x))) s)

/-- EXA1 SKNP (R144, R145). -/
def execSknp (x : Nibble) (s : State) : Host.Outcome State Fault Refusal :=
  .next (skipIf (!s.keyDown (lowDigit (s.reg x))) s)

/-- FX0A LD Vx, K (R146, R147): with no key pressed nothing is written and pc stays, so that the same instruction is fetched
again (AWAIT is the Step's, spec/40_step_cycle.md R86); else V[X] <- the smallest pressed index. -/
def execLdKey (x : Nibble) (s : State) : Host.Outcome State Fault Refusal :=
  match s.firstKey with
  | none => .next s
  | some k => .next ((s.setReg x (k.setWidth 8)).advance 2)

end Sys2Proof.Machine
end

