-- ==== Sys2Proof/Machine/Cycle.lean ====
section
/-! DEFINITION. The Step from end to end (spec/40_step_cycle.md R80): halted, fetch check, fetch, decode, execute, AWAIT; the
unknown opcode (R83) and its event (spec/60_exceptions.md R176). -/

namespace Sys2Proof.Machine

/-- Is the block halted? (spec/10_state.md R30) -/
def State.halted (s : State) : Bool := s.err != .none

/-- Are both bytes of the instruction at pc in memory: pc ≤ 0xFFE? (spec/40_step_cycle.md R81) -/
def State.canFetch (s : State) : Bool := decide (s.pc.toNat ≤ 0xFFE)

/-- The word at pc, big-endian, from memory as it is at this Step (R81; spec/20_memory.md R47, R52). -/
def State.fetchWord (s : State) : Word := wordOfBytes (s.byte s.pc.toNat) (s.byte (s.pc.toNat + 1))

/-- Is the instruction FX0A? Only it can leave AWAIT = 1 (R86). -/
def isKeyWait : Instr → Bool
  | .ldKey _ => true
  | _ => false

/-- AWAIT after an executed instruction: 1 exactly when it was FX0A and no key was pressed (R86). -/
def awaitAfter (i : Instr) (s : State) : Bool := isKeyWait i && s.firstKey.isNone

/-- AWAIT <- b. -/
def State.setAwait (s : State) (b : Bool) : State := { s with await := b }

/-- The unknown opcode: pc + 2, AWAIT <- 0, nothing else (R83, R86). -/
def State.skipUnknown (s : State) : State := (s.advance 2).setAwait false

/-- The Step (R80). -/
def cycle (s : State) : Host.Outcome State Fault Refusal :=
  if s.halted then .next s
  else if s.canFetch then
    match decodeWord s.fetchWord with
    | some i => onNext (fun t => t.setAwait (awaitAfter i s)) (exec i s)
    | none => .next s.skipUnknown
  else .next (s.raise .addressFault)

/-- The event UnknownOpcode(a, w): the address the word was fetched from, and the word (spec/60_exceptions.md R176). -/
structure UnknownOpcode where
  addr : Word
  word : Word
  deriving DecidableEq, Repr

/-- The event the Step from this state emits: one exactly when it decodes an unknown opcode (R83; R176). -/
def State.stepEvent (s : State) : Option UnknownOpcode :=
  if s.halted then none
  else if s.canFetch then
    match decodeWord s.fetchWord with
    | some _ => none
    | none => some ⟨s.pc, s.fetchWord⟩
  else none

end Sys2Proof.Machine
end

