-- ==== Sys2Proof/Machine/Step.lean ====
section
/-! DEFINITION. The step of the machine: one Step command (spec/40_step_cycle.md R80), its random byte left free (log 2); and
the placing of an instruction where it fetches next. -/

namespace Sys2Proof.Machine

/-- One Step. -/
def step (s : State) : Host.Outcome State Fault Refusal := cycle s

/-- The state with one instruction's word stored at pc, high byte first (spec/20_memory.md R47), so that the next Step fetches
it, from a running state whose pc can be fetched, as after reset; with pc above 0xFFE the state is left as it is. It stands for
the Load command, which lays a program's bytes from 0x200 on (spec/46_host_commands.md R152; log 6). -/
def State.withFetchWord (s : State) (nbits w : Nat) : State :=
  (s.storeBytes s.pc.toNat (bytesOfWord (tableWord nbits w))).getD s

end Sys2Proof.Machine
end

