-- ==== Sys2Proof/Machine/HostCmd.lean ====
section
/-! DEFINITION. The host's commands and observers (spec/46_host_commands.md R150; Reset: spec/70_reset_and_hazards.md R200; Tick:
spec/60_exceptions.md R180). Each is atomic; the host chooses the sequence (R151). All but Step work the same whether or not
the block is halted or awaiting a key (spec/60_exceptions.md R182). -/

namespace Sys2Proof.Machine

/-- Reset (spec/70_reset_and_hazards.md R200 to R202): every cell at its reset value, whatever it held. The parameters stay,
and so does the count of random bytes drawn, which is the outside world's (log 9). -/
def State.resetCommand (s : State) : State := { State.resetWith s.cfg with draws := s.draws }

/-- The one reason Load fails (spec/46_host_commands.md R153): more than 3584 bytes. A result, not latched in ERR. -/
inductive LoadError where
  | tooLong
  deriving DecidableEq, Repr

/-- Load (R152 to R154): the bytes to 0x200 on, nothing else; or LoadError, and nothing changes. -/
def State.load (s : State) (bytes : List Byte) : Except LoadError State :=
  if bytes.length ≤ progMax then .ok { s with mem := s.mem.writeAll s.cfg progBase bytes }
  else .error .tooLong

/-- One decrement, clamped at 0 (spec/60_exceptions.md R180). -/
def countDown (b : Byte) : Byte := if b = 0 then 0 else b - 1

/-- Tick (R180, R181): SNDP <- 1 exactly when ST is 1 before it; each timer counts down by itself. -/
def State.tick (s : State) : State := { s with sndp := s.st == 1, dt := countDown s.dt, st := countDown s.st }

/-- ConsumeRedraw (spec/46_host_commands.md R156): the state after it; its result is the old DRAWF. -/
def State.consumeRedraw (s : State) : State := { s with drawf := false }

/-- GetFramebuffer (R157): FB[y][x]. -/
def State.getFramebuffer (s : State) (x : Fin 64) (y : Fin 32) : Bool := s.pixel x y

/-- IsSoundPending (R158): SNDP. -/
def State.isSoundPending (s : State) : Bool := s.sndp

/-- What Status returns (R159): ERR, AWAIT and pc. -/
structure StatusReport where
  err   : BitVec 2
  await : Bool
  pc    : Word
  deriving DecidableEq, Repr

/-- Status (R159). -/
def State.status (s : State) : StatusReport := ⟨s.err.code, s.await, s.pc⟩

/-- The six commands (R150). -/
inductive Command where
  | reset
  | load (bytes : List Byte)
  | step (rnd : Byte)
  | tick
  | setKey (k : Nibble) (pressed : Bool)
  | consumeRedraw
  deriving DecidableEq, Repr

/-- What a command answers the host (R150, column "result"). -/
inductive Response where
  /-- Reset, Tick and SetKey answer nothing. -/
  | done
  /-- Load: ok, or LoadError. -/
  | loaded (failed : Option LoadError)
  /-- Step: zero or one UnknownOpcode event. -/
  | stepped (event : Option UnknownOpcode)
  /-- ConsumeRedraw: the old DRAWF. -/
  | redraw (flag : Bool)
  deriving DecidableEq, Repr

/-- The Step command with its random byte (spec/40_step_cycle.md R80; spec/42_alu.md R115). The byte is an input of this Step
only: afterwards none is left over. -/
def State.stepWith (s : State) (rnd : Byte) : Host.Outcome State Fault Refusal :=
  onNext (fun t => { t with rndIn := none }) (cycle { s with rndIn := some rnd })

/-- The next state of a Step and its response; a fault or a refusal is passed on. -/
def withEvent (e : Option UnknownOpcode) : Host.Outcome State Fault Refusal →
    Host.Outcome (State × Response) Fault Refusal
  | .next t => .next (t, .stepped e)
  | .fault r => .fault r
  | .refused r => .refused r

/-- One command, performed to completion, with its response (R150, R151): the transition system of spec/00_scope.md R8. -/
def perform (c : Command) (s : State) : Host.Outcome (State × Response) Fault Refusal :=
  match c with
  | .reset => .next (s.resetCommand, .done)
  | .load bytes =>
    match s.load bytes with
    | .ok t => .next (t, .loaded none)
    | .error e => .next (s, .loaded (some e))
  | .step rnd => withEvent s.stepEvent (s.stepWith rnd)
  | .tick => .next (s.tick, .done)
  | .setKey k p => .next (s.setKeyBit k p, .done)
  | .consumeRedraw => .next (s.consumeRedraw, .redraw s.drawf)

end Sys2Proof.Machine
end

