-- ==== Sys2Proof/Machine/Ports.lean ====
section
/-! DEFINITION. The synchronous port binding of spec/46_host_commands.md R161, one accepted command per call: the inputs sampled
in a cycle where `cmd_ready` is high, and the outputs when it is high again. How many cycles lie between is not specified
(spec/70_reset_and_hazards.md R213; log 12). -/

namespace Sys2Proof.Machine

/-- The input ports of R161, but the clock. -/
structure PortIn where
  cmdValid : Bool
  cmd      : BitVec 3
  keyIdx   : Nibble
  keyVal   : Bool
  ldAddr   : Addr12
  ldData   : Byte
  rnd      : Byte
  fbX      : BitVec 6
  fbY      : BitVec 5
  deriving DecidableEq, Repr

/-- The output ports of R161, meaningful while `cmd_ready` is high. -/
structure PortOut where
  cmdReady   : Bool
  fbPixel    : Bool
  redraw     : Bool
  sndPending : Bool
  err        : BitVec 2
  awaitKey   : Bool
  pcOut      : Word
  unk        : Option UnknownOpcode
  deriving DecidableEq, Repr

/-- What the ports offer: a command of R150, one LoadByte, or no operation (R161, port `cmd`). -/
inductive PortCommand where
  | idle
  | command (c : Command)
  | loadByte (addr : Addr12) (data : Byte)
  deriving DecidableEq, Repr

/-- The command encoded on the ports: 1 Reset, 2 Step, 3 Tick, 4 SetKey, 5 ConsumeRedraw, 6 LoadByte; 0 and 7, or no
`cmd_valid`, no operation (R161). -/
def portCommand (p : PortIn) : PortCommand :=
  if p.cmdValid then
    match p.cmd.toNat with
    | 1 => .command .reset
    | 2 => .command (.step p.rnd)
    | 3 => .command .tick
    | 4 => .command (.setKey p.keyIdx p.keyVal)
    | 5 => .command .consumeRedraw
    | 6 => .loadByte p.ldAddr p.ldData
    | _ => .idle
  else .idle

/-- LoadByte: MEM[addr] <- data, performed only for 0x200 ≤ addr, ignored otherwise (R161). -/
def State.loadByte (s : State) (addr : Addr12) (data : Byte) : State :=
  if progBase ≤ addr.toNat then { s with mem := s.mem.write s.cfg addr.toNat data } else s

/-- The outputs while the block is idle (R161): `unk` is the event of the Step that has just completed. -/
def State.portOut (s : State) (p : PortIn) (unk : Option UnknownOpcode) : PortOut :=
  { cmdReady := true
    fbPixel := s.pixel p.fbX.toFin p.fbY.toFin
    redraw := s.drawf
    sndPending := s.sndp
    err := s.err.code
    awaitKey := s.await
    pcOut := s.pc
    unk := unk }

/-- The event a response carries to the ports. -/
def Response.event : Response → Option UnknownOpcode
  | .stepped e => e
  | .done => none
  | .loaded _ => none
  | .redraw _ => none

/-- The state after a performed command and the outputs then; a fault or a refusal is passed on. -/
def withPorts (p : PortIn) : Host.Outcome (State × Response) Fault Refusal →
    Host.Outcome (State × PortOut) Fault Refusal
  | .next (t, r) => .next (t, t.portOut p r.event)
  | .fault r => .fault r
  | .refused r => .refused r

/-- One accepted cycle: perform what the ports offer (R161). -/
def portCycle (p : PortIn) (s : State) : Host.Outcome (State × PortOut) Fault Refusal :=
  match portCommand p with
  | .idle => .next (s, s.portOut p none)
  | .command c => withPorts p (perform c s)
  | .loadByte a d => .next (s.loadByte a d, (s.loadByte a d).portOut p none)

end Sys2Proof.Machine
end

