-- ==== Sys2Proof/Safety.lean ====
section
/-! DEFINITION. The terms the statements use: a running block, the invariant of a run, what an instruction leaves unchanged, and
the sprite mask of a draw. -/

namespace Sys2Proof.Machine

/-! ### Running, and the invariant -/

/-- The block is not halted: ERR = 0 (spec/10_state.md R30). -/
def State.Running (s : State) : Prop := s.err = .none

/-- Memory is in its canonical form (log 8). -/
def State.MemOk (s : State) : Prop := s.mem.wf s.cfg

/-- Every live stack entry is an address a CALL was fetched from: at most 0xFFE (spec/10_state.md R19). -/
def State.StackOk (s : State) : Prop := ∀ j, j < s.sp.val → (s.stackAt j).toNat ≤ 0xFFE

/-- pc is at most 0x10FE, the largest value any rule writes (spec/10_state.md R17). -/
def State.PcOk (s : State) : Prop := s.pc.toNat ≤ 0x10FE

/-- A halted block is not awaiting a key (spec/60_exceptions.md R172). -/
def State.HaltOk (s : State) : Prop := s.err ≠ .none → s.await = false

/-- What holds at reset and after every Step and command. -/
def State.Inv (s : State) : Prop := s.MemOk ∧ s.StackOk ∧ s.PcOk ∧ s.HaltOk

/-! ### What is left unchanged, from a state `s` to a state `t` -/

/-- Every general register. -/
def KeepsRegs (s t : State) : Prop := ∀ r, t.reg r = s.reg r

/-- The index register. -/
def KeepsIndex (s t : State) : Prop := t.i = s.i

/-- SP and every stack cell. -/
def KeepsStack (s t : State) : Prop := t.sp = s.sp ∧ ∀ j, t.stackAt j = s.stackAt j

/-- Both timers. -/
def KeepsTimers (s t : State) : Prop := t.dt = s.dt ∧ t.st = s.st

/-- Every byte of memory. -/
def KeepsMemory (s t : State) : Prop := ∀ a, t.byte a = s.byte a

/-- Every pixel and DRAWF. -/
def KeepsDisplay (s t : State) : Prop := (∀ x y, t.pixel x y = s.pixel x y) ∧ t.drawf = s.drawf

/-- Every key bit, SNDP, AWAIT and ERR. -/
def KeepsStatus (s t : State) : Prop :=
  (∀ k, t.keyDown k = s.keyDown k) ∧ t.sndp = s.sndp ∧ t.await = s.await ∧ t.err = s.err

/-- The parameters. -/
def KeepsParams (s t : State) : Prop := t.cfg = s.cfg

/-- The model's own random input (log 2). -/
def KeepsInput (s t : State) : Prop := t.rndIn = s.rndIn ∧ t.draws = s.draws

/-- Everything but the general registers and pc. -/
def OnlyRegsAndPc (s t : State) : Prop :=
  KeepsIndex s t ∧ KeepsStack s t ∧ KeepsTimers s t ∧ KeepsMemory s t ∧ KeepsDisplay s t ∧ KeepsStatus s t ∧
    KeepsParams s t ∧ KeepsInput s t

/-- Everything but pc. -/
def OnlyPc (s t : State) : Prop := KeepsRegs s t ∧ OnlyRegsAndPc s t

/-! ### The draw as one XOR (spec/44_display.md R135) -/

/-- The wrapped sprite mask: is a source bit 1 drawn at FB[y][x] by the sprite `bs` placed at (x0, y0)? The row and the column
of the sprite that land there are the differences modulo 32 and 64 (R132). -/
def spriteMask (bs : List Byte) (x0 y0 : Byte) (x : Fin 64) (y : Fin 32) : Bool :=
  let row := (y.val + 256 - y0.toNat) % 32
  let col := (x.val + 256 - x0.toNat) % 64
  match bs[row]? with
  | some b => decide (col < 8) && b.getLsbD (7 - col)
  | none => false

/-- The sprite bytes a draw of n rows reads: MEM[I .. I + n - 1] (R131). -/
def State.spriteBytes (s : State) (n : Nat) : List Byte := (List.range n).map fun j => s.byte (s.i.toNat + j)

end Sys2Proof.Machine
end

