-- ==== Sys2Proof/Certificates/Slice0/Obligations.lean ====
section
/-! DEFINITION. The statements for the provers. Each docstring names the rule or the section of spec/ it states. Unless a
hypothesis says otherwise a statement is about every state, halted or not, and every value of the open parameters. -/

open Sys2Proof Sys2Proof.Machine

/-! ### Encoding (spec/30_encoding.md) -/

/-- Decoding the word, and the bytes, of any well-formed instruction gives it back (sections 1 to 3; spec/20_memory.md section 4
for the byte order). -/
def Obligations.DecodeOfEncodeIsTheInstruction : Prop :=
  ∀ (i : Instr) (rest : List Byte), i.wellFormed = true →
    decodeWord (encode i) = some i ∧ decode (encodeBytes i ++ rest) = .ok (i, rest)

/-- A word that decodes is the encoding of what it decodes to: no two words are one instruction (sections 1 to 3). -/
def Obligations.EncodeOfDecodeIsTheWord : Prop :=
  ∀ (w : Word) (i : Instr), decodeWord w = some i → encode i = w

/-- No word matches two rows of the opcode table, which has 34 rows (R64, whose sentence is the spec's own derivation). -/
def Obligations.NoWordMatchesTwoRows : Prop :=
  opcodeTable.length = 34 ∧
    ∀ (w : Word), ∀ r ∈ opcodeTable, ∀ q ∈ opcodeTable, r.covers w = true → q.covers w = true → r = q

/-- The two-level decoder and the table of mask and match say the same: a word matches a row exactly when it decodes to that
row's instruction (section 3, the table of R65). -/
def Obligations.DecoderAgreesWithOpcodeTable : Prop :=
  ∀ (w : Word), ∀ r ∈ opcodeTable,
    (r.covers w = true ↔ ∃ i, decodeWord w = some i ∧ i.mnemonic = r.mnemonic)

/-- The unknown words, class by class (section 3, the map of R66; class 0 on all 16 bits is the spec's decision D27). -/
def Obligations.UnknownWordsByClass : Prop :=
  ∀ (w : Word), decodeWord w = none ↔
    (fieldOP w = 0x0 ∧ w ≠ 0x00E0 ∧ w ≠ 0x00EE) ∨
    (fieldOP w = 0x5 ∧ fieldN w ≠ 0x0) ∨
    (fieldOP w = 0x8 ∧ fieldN w ∈ [0x8, 0x9, 0xA, 0xB, 0xC, 0xD, 0xF]) ∨
    (fieldOP w = 0x9 ∧ fieldN w ≠ 0x0) ∨
    (fieldOP w = 0xE ∧ fieldKK w ∉ [0x9E, 0xA1]) ∨
    (fieldOP w = 0xF ∧ fieldKK w ∉ [0x07, 0x0A, 0x15, 0x18, 0x1E, 0x29, 0x33, 0x55, 0x65])

/-- The worked encodings of section 6 (R71, the spec's own derivation), and three unknown words: 0x0000 and 0x01E0, which section
3 names (class 0 on all 16 bits is the spec's decision D27; log 13), and 0x5AB1, which spec/40_step_cycle.md section 2 names. -/
def Obligations.WorkedEncodingsDecode : Prop :=
  decodeWord 0x3A05 = some (.seI 0xA 0x05) ∧ decodeWord 0xD125 = some (.drw 1 2 5) ∧
    decodeWord 0xF355 = some (.ldStore 3) ∧ decodeWord 0x22F0 = some (.call 0x2F0) ∧
    decodeWord 0x8474 = some (.addR 4 7) ∧ decodeWord 0x0000 = none ∧ decodeWord 0x5AB1 = none ∧
    decodeWord 0x01E0 = none

/-! ### Control transfer (spec/41_control_flow.md) -/

/-- R94, R95: the skips on an immediate. -/
def Obligations.SkipOnImmediate : Prop :=
  ∀ (x : Nibble) (kk : Byte) (s : State),
    (decodeWord (0x3#4 ++ x ++ kk) = some (.seI x kk) ∧
      ∃ t, exec (.seI x kk) s = .next t ∧ t.pc = (if s.reg x = kk then s.pc + 4 else s.pc + 2) ∧ OnlyPc s t) ∧
    (decodeWord (0x4#4 ++ x ++ kk) = some (.sneI x kk) ∧
      ∃ t, exec (.sneI x kk) s = .next t ∧ t.pc = (if s.reg x ≠ kk then s.pc + 4 else s.pc + 2) ∧ OnlyPc s t)

/-- R96, R97: the skips on two registers, and the words with a nonzero low nibble. -/
def Obligations.SkipOnRegisters : Prop :=
  ∀ (x y : Nibble) (s : State),
    (decodeWord (0x5#4 ++ x ++ y ++ 0x0#4) = some (.seR x y) ∧
      ∃ t, exec (.seR x y) s = .next t ∧ t.pc = (if s.reg x = s.reg y then s.pc + 4 else s.pc + 2) ∧ OnlyPc s t) ∧
    (decodeWord (0x9#4 ++ x ++ y ++ 0x0#4) = some (.sneR x y) ∧
      ∃ t, exec (.sneR x y) s = .next t ∧ t.pc = (if s.reg x ≠ s.reg y then s.pc + 4 else s.pc + 2) ∧ OnlyPc s t) ∧
    (∀ n : Nibble, n ≠ 0 →
      decodeWord (0x5#4 ++ x ++ y ++ n) = none ∧ decodeWord (0x9#4 ++ x ++ y ++ n) = none)

/-- R91: the absolute jump; onto itself it changes nothing, and a target above 0xFFE makes the next Step fault there
(that fault is the spec's decision D6; log 13). -/
def Obligations.JumpGoesToAddress : Prop :=
  ∀ (nnn : Addr12) (s : State),
    decodeWord (0x1#4 ++ nnn) = some (.jp nnn) ∧
      ∃ t, exec (.jp nnn) s = .next t ∧ t.pc.toNat = nnn.toNat ∧ OnlyPc s t ∧
        (s.pc.toNat = nnn.toNat → t = s) ∧
        (s.Running → 0xFFE < nnn.toNat → ∃ u, step t = .next u ∧ u.err = .addressFault ∧ u.pc = t.pc)

/-- R93: the jump with offset, its sum not reduced; a sum above 0xFFE makes the next Step fault there (that fault is the
spec's decision D6; log 13). -/
def Obligations.JumpWithOffsetAddsV0 : Prop :=
  ∀ (nnn : Addr12) (s : State),
    decodeWord (0xB#4 ++ nnn) = some (.jpV0 nnn) ∧
      ∃ t, exec (.jpV0 nnn) s = .next t ∧ t.pc.toNat = nnn.toNat + (s.reg 0).toNat ∧ OnlyPc s t ∧
        (s.Running → 0xFFE < nnn.toNat + (s.reg 0).toNat →
          ∃ u, step t = .next u ∧ u.err = .addressFault ∧ u.pc = t.pc)

/-- 2NNN (section 1): below 16 entries the call pushes its own address and jumps; at 16 it raises StackOverflow, code 1, which
changes ERR and AWAIT only (the spec's decisions D7, D8, D17; log 13). -/
def Obligations.CallPushesItsOwnAddress : Prop :=
  ∀ (nnn : Addr12) (s : State),
    decodeWord (0x2#4 ++ nnn) = some (.call nnn) ∧
    (s.sp.val < 16 → ∃ t, exec (.call nnn) s = .next t ∧ t.sp.val = s.sp.val + 1 ∧
      (∀ j, t.stackAt j = if j = s.sp.val then s.pc else s.stackAt j) ∧ t.pc.toNat = nnn.toNat ∧
      KeepsRegs s t ∧ KeepsIndex s t ∧ KeepsTimers s t ∧ KeepsMemory s t ∧ KeepsDisplay s t ∧ KeepsStatus s t ∧
      KeepsParams s t ∧ KeepsInput s t) ∧
    (s.sp.val = 16 → exec (.call nnn) s = .next { s with err := .stackOverflow, await := false }) ∧
    ErrCode.stackOverflow.code = 1

/-- 00EE (section 1): with an entry on the stack the return pops it and goes 2 past it; with none it raises StackUnderflow,
code 2, which changes ERR and AWAIT only (the spec's decisions D7, D8, D17; log 13). -/
def Obligations.ReturnGoesPastTheCall : Prop :=
  ∀ (s : State),
    decodeWord 0x00EE = some .ret ∧
    (0 < s.sp.val → ∃ t, exec .ret s = .next t ∧ t.sp.val = s.sp.val - 1 ∧
      (∀ j, t.stackAt j = s.stackAt j) ∧ t.pc = s.stackAt (s.sp.val - 1) + 2 ∧
      KeepsRegs s t ∧ KeepsIndex s t ∧ KeepsTimers s t ∧ KeepsMemory s t ∧ KeepsDisplay s t ∧ KeepsStatus s t ∧
      KeepsParams s t ∧ KeepsInput s t) ∧
    (s.sp.val = 0 → exec .ret s = .next { s with err := .stackUnderflow, await := false }) ∧
    ErrCode.stackUnderflow.code = 2

/-- A call and the return right after it both complete, and land on the instruction after the call, with the stack depth, the
live entries, every register and every byte as before (section 1, the corner cases of both rules). -/
def Obligations.ReturnUndoesCall : Prop :=
  ∀ (nnn : Addr12) (s : State), s.sp.val < 16 →
    ∃ t u, exec (.call nnn) s = .next t ∧ exec .ret t = .next u ∧ u.pc = s.pc + 2 ∧ u.sp = s.sp ∧
      (∀ j, j < s.sp.val → u.stackAt j = s.stackAt j) ∧ KeepsRegs s u ∧ KeepsMemory s u

/-! ### Loads, arithmetic, logic, shifts, random (spec/42_alu.md) -/

/-- R102, R104: load an immediate, copy a register. -/
def Obligations.LoadAndCopyRegister : Prop :=
  ∀ (x y : Nibble) (kk : Byte) (s : State),
    (decodeWord (0x6#4 ++ x ++ kk) = some (.ldI x kk) ∧
      ∃ t, exec (.ldI x kk) s = .next t ∧ (∀ r, t.reg r = if r = x then kk else s.reg r) ∧ t.pc = s.pc + 2 ∧
        OnlyRegsAndPc s t) ∧
    (decodeWord (0x8#4 ++ x ++ y ++ 0x0#4) = some (.ldR x y) ∧
      ∃ t, exec (.ldR x y) s = .next t ∧ (∀ r, t.reg r = if r = x then s.reg y else s.reg r) ∧ t.pc = s.pc + 2 ∧
        OnlyRegsAndPc s t)

/-- R103: add an immediate, wrapping, no flag. -/
def Obligations.AddImmediateWraps : Prop :=
  ∀ (x : Nibble) (kk : Byte) (s : State),
    decodeWord (0x7#4 ++ x ++ kk) = some (.addI x kk) ∧
      ∃ t, exec (.addI x kk) s = .next t ∧
        (∀ r, (t.reg r).toNat = if r = x then ((s.reg x).toNat + kk.toNat) % 256 else (s.reg r).toNat) ∧
        t.pc = s.pc + 2 ∧ OnlyRegsAndPc s t

/-- 8XY1, 8XY2, 8XY3 (section 3): bit by bit, and VF is left alone unless X = 15 (the spec's decision D14; log 13). -/
def Obligations.LogicIsBitwiseAndKeepsVF : Prop :=
  ∀ (x y : Nibble) (s : State),
    (decodeWord (0x8#4 ++ x ++ y ++ 0x1#4) = some (.orR x y) ∧
      ∃ t, exec (.orR x y) s = .next t ∧
        (∀ r b, (t.reg r).getLsbD b =
          if r = x then (s.reg x).getLsbD b || (s.reg y).getLsbD b else (s.reg r).getLsbD b) ∧
        t.pc = s.pc + 2 ∧ OnlyRegsAndPc s t) ∧
    (decodeWord (0x8#4 ++ x ++ y ++ 0x2#4) = some (.andR x y) ∧
      ∃ t, exec (.andR x y) s = .next t ∧
        (∀ r b, (t.reg r).getLsbD b =
          if r = x then (s.reg x).getLsbD b && (s.reg y).getLsbD b else (s.reg r).getLsbD b) ∧
        t.pc = s.pc + 2 ∧ OnlyRegsAndPc s t) ∧
    (decodeWord (0x8#4 ++ x ++ y ++ 0x3#4) = some (.xorR x y) ∧
      ∃ t, exec (.xorR x y) s = .next t ∧
        (∀ r b, (t.reg r).getLsbD b =
          if r = x then (s.reg x).getLsbD b ^^ (s.reg y).getLsbD b else (s.reg r).getLsbD b) ∧
        t.pc = s.pc + 2 ∧ OnlyRegsAndPc s t)

/-- R108: the sum modulo 256 into V[X], then the carry into VF, which wins when X = 15. -/
def Obligations.AddRegistersCarry : Prop :=
  ∀ (x y : Nibble) (s : State),
    decodeWord (0x8#4 ++ x ++ y ++ 0x4#4) = some (.addR x y) ∧
      ∃ t, exec (.addR x y) s = .next t ∧
        (∀ r, (t.reg r).toNat =
          if r = 0xF then (if (s.reg x).toNat + (s.reg y).toNat > 255 then 1 else 0)
          else if r = x then ((s.reg x).toNat + (s.reg y).toNat) % 256
          else (s.reg r).toNat) ∧
        t.pc = s.pc + 2 ∧ OnlyRegsAndPc s t

/-- R109, R111: the difference modulo 256 into V[X], then NOT borrow into VF, which wins when X = 15. -/
def Obligations.SubtractRegistersNoBorrow : Prop :=
  ∀ (x y : Nibble) (s : State),
    (decodeWord (0x8#4 ++ x ++ y ++ 0x5#4) = some (.sub x y) ∧
      ∃ t, exec (.sub x y) s = .next t ∧
        (∀ r, ((t.reg r).toNat : Int) =
          if r = 0xF then (if (s.reg x).toNat ≥ (s.reg y).toNat then 1 else 0)
          else if r = x then (((s.reg x).toNat : Int) - (s.reg y).toNat) % 256
          else (s.reg r).toNat) ∧
        t.pc = s.pc + 2 ∧ OnlyRegsAndPc s t) ∧
    (decodeWord (0x8#4 ++ x ++ y ++ 0x7#4) = some (.subn x y) ∧
      ∃ t, exec (.subn x y) s = .next t ∧
        (∀ r, ((t.reg r).toNat : Int) =
          if r = 0xF then (if (s.reg y).toNat ≥ (s.reg x).toNat then 1 else 0)
          else if r = x then (((s.reg y).toNat : Int) - (s.reg x).toNat) % 256
          else (s.reg r).toNat) ∧
        t.pc = s.pc + 2 ∧ OnlyRegsAndPc s t)

/-- 8XY6, 8XYE (section 3): the source SHIFT_SRC names, shifted by one into V[X], then the bit shifted out into VF, which wins
when X = 15 (SHIFT_SRC is open, the spec's decision D4: the statement holds for both values; log 1). -/
def Obligations.ShiftsMoveOneBitIntoVF : Prop :=
  ∀ (x y : Nibble) (s : State),
    let src := if s.cfg.shiftSrc = .vx then s.reg x else s.reg y
    (decodeWord (0x8#4 ++ x ++ y ++ 0x6#4) = some (.shr x y) ∧
      ∃ t, exec (.shr x y) s = .next t ∧
        (∀ r, (t.reg r).toNat =
          if r = 0xF then src.toNat % 2 else if r = x then src.toNat / 2 else (s.reg r).toNat) ∧
        t.pc = s.pc + 2 ∧ OnlyRegsAndPc s t) ∧
    (decodeWord (0x8#4 ++ x ++ y ++ 0xE#4) = some (.shl x y) ∧
      ∃ t, exec (.shl x y) s = .next t ∧
        (∀ r, (t.reg r).toNat =
          if r = 0xF then src.toNat / 128 else if r = x then (src.toNat * 2) % 256 else (s.reg r).toNat) ∧
        t.pc = s.pc + 2 ∧ OnlyRegsAndPc s t)

/-- CXKK (section 4): the input byte, masked. The byte is the one the host's Step gave, or else free (log 2): nothing here
rests on its value. -/
def Obligations.RandomByteIsMasked : Prop :=
  ∀ (x : Nibble) (kk : Byte) (s : State),
    decodeWord (0xC#4 ++ x ++ kk) = some (.rnd x kk) ∧
    (∀ b, s.rndIn = some b → s.rndByte = b) ∧
    ∃ t, exec (.rnd x kk) s = .next t ∧ (∀ r, t.reg r = if r = x then s.rndByte &&& kk else s.reg r) ∧
      (t.reg x).toNat ≤ kk.toNat ∧ t.pc = s.pc + 2 ∧
      KeepsIndex s t ∧ KeepsStack s t ∧ KeepsTimers s t ∧ KeepsMemory s t ∧ KeepsDisplay s t ∧ KeepsStatus s t ∧
      KeepsParams s t ∧ t.rndIn = none ∧ t.draws = s.draws + 1

/-- VF changes only by the seven flag writers or as the named destination (spec/10_state.md section 2), and a flag writer that
completes leaves exactly 0 or 1 there (a draw that faults does not advance pc and writes no register: log 4). -/
def Obligations.OnlyFlagWritersAndDestinationsChangeVF : Prop :=
  ∀ (i : Instr) (s t : State), exec i s = .next t →
    (t.reg 0xF ≠ s.reg 0xF →
      (∃ x y, i = .addR x y) ∨ (∃ x y, i = .sub x y) ∨ (∃ x y, i = .shr x y) ∨ (∃ x y, i = .subn x y) ∨
      (∃ x y, i = .shl x y) ∨ (∃ x y n, i = .drw x y n) ∨ (∃ x, i = .addIndex x) ∨
      (∃ kk, i = .ldI 0xF kk ∨ i = .addI 0xF kk ∨ i = .rnd 0xF kk) ∨
      (∃ y, i = .ldR 0xF y ∨ i = .orR 0xF y ∨ i = .andR 0xF y ∨ i = .xorR 0xF y) ∨
      i = .ldGetDT 0xF ∨ i = .ldKey 0xF ∨ i = .ldLoad 0xF) ∧
    ((∃ x y, i = .addR x y ∨ i = .sub x y ∨ i = .shr x y ∨ i = .subn x y ∨ i = .shl x y) ∨
        (∃ x, i = .addIndex x) ∨ (∃ x y n, i = .drw x y n ∧ t.pc ≠ s.pc) →
      t.reg 0xF = 0 ∨ t.reg 0xF = 1)

/-! ### Index register and memory transfers (spec/43_index_memory.md) -/

/-- R120: load the index register. -/
def Obligations.LoadIndexImmediate : Prop :=
  ∀ (nnn : Addr12) (s : State),
    decodeWord (0xA#4 ++ nnn) = some (.ldIndex nnn) ∧
      ∃ t, exec (.ldIndex nnn) s = .next t ∧ t.i.toNat = nnn.toNat ∧ t.pc = s.pc + 2 ∧
        KeepsRegs s t ∧ KeepsStack s t ∧ KeepsTimers s t ∧ KeepsMemory s t ∧ KeepsDisplay s t ∧ KeepsStatus s t ∧
        KeepsParams s t ∧ KeepsInput s t

/-- FX1E (section 1): I + VX modulo 65536, VF from the unreduced sum (the spec's decision D15; log 13). -/
def Obligations.AddToIndexFlagsRange : Prop :=
  ∀ (x : Nibble) (s : State),
    decodeWord (0xF#4 ++ x ++ 0x1E#8) = some (.addIndex x) ∧
      ∃ t, exec (.addIndex x) s = .next t ∧
        t.i.toNat = (s.i.toNat + (s.reg x).toNat) % 65536 ∧
        (∀ r, (t.reg r).toNat =
          if r = 0xF then (if s.i.toNat + (s.reg x).toNat > 0xFFF then 1 else 0) else (s.reg r).toNat) ∧
        t.pc = s.pc + 2 ∧ KeepsStack s t ∧ KeepsTimers s t ∧ KeepsMemory s t ∧ KeepsDisplay s t ∧ KeepsStatus s t ∧
        KeepsParams s t ∧ KeepsInput s t

/-- FX29 (section 1): the address of the glyph of the low hex digit, for every FONT_BASE (the spec's decision D2; log 1). -/
def Obligations.PointIndexAtGlyph : Prop :=
  ∀ (x : Nibble) (s : State),
    decodeWord (0xF#4 ++ x ++ 0x29#8) = some (.ldFont x) ∧
      ∃ t, exec (.ldFont x) s = .next t ∧
        t.i.toNat = s.cfg.fontBase.val + 5 * ((s.reg x).toNat % 16) ∧ t.i.toNat ≤ 0x1FB ∧ t.pc = s.pc + 2 ∧
        KeepsRegs s t ∧ KeepsStack s t ∧ KeepsTimers s t ∧ KeepsMemory s t ∧ KeepsDisplay s t ∧ KeepsStatus s t ∧
        KeepsParams s t ∧ KeepsInput s t

/-- FX33 (section 2): hundreds, tens, ones to I, I + 1, I + 2; out of range AddressFault and nothing else (the spec's decisions
D6, D13; log 13). -/
def Obligations.StoreDecimalDigits : Prop :=
  ∀ (x : Nibble) (s : State),
    decodeWord (0xF#4 ++ x ++ 0x33#8) = some (.ldBcd x) ∧
    (s.indexAddr + 2 ≤ 0xFFF → ∃ t, exec (.ldBcd x) s = .next t ∧
      (t.byte s.indexAddr).toNat = (s.reg x).toNat / 100 ∧
      (t.byte (s.indexAddr + 1)).toNat = (s.reg x).toNat / 10 % 10 ∧
      (t.byte (s.indexAddr + 2)).toNat = (s.reg x).toNat % 10 ∧
      (∀ a, a < s.indexAddr ∨ s.indexAddr + 2 < a → t.byte a = s.byte a) ∧ t.pc = s.pc + 2 ∧
      KeepsRegs s t ∧ KeepsIndex s t ∧ KeepsStack s t ∧ KeepsTimers s t ∧ KeepsDisplay s t ∧ KeepsStatus s t ∧
      KeepsParams s t ∧ KeepsInput s t) ∧
    (0xFFF < s.indexAddr + 2 → exec (.ldBcd x) s = .next { s with err := .addressFault, await := false })

/-- FX55 (section 2): V0..VX to I .. I + X; out of range AddressFault and nothing else (the spec's decisions D6, D13;
log 13). -/
def Obligations.StoreRegisterBlock : Prop :=
  ∀ (x : Nibble) (s : State),
    decodeWord (0xF#4 ++ x ++ 0x55#8) = some (.ldStore x) ∧
    (s.indexAddr + x.toNat ≤ 0xFFF → ∃ t, exec (.ldStore x) s = .next t ∧
      (∀ a, t.byte a = if s.indexAddr ≤ a ∧ a ≤ s.indexAddr + x.toNat
        then s.reg (BitVec.ofNat 4 (a - s.indexAddr)) else s.byte a) ∧
      t.pc = s.pc + 2 ∧
      KeepsRegs s t ∧ KeepsIndex s t ∧ KeepsStack s t ∧ KeepsTimers s t ∧ KeepsDisplay s t ∧ KeepsStatus s t ∧
      KeepsParams s t ∧ KeepsInput s t) ∧
    (0xFFF < s.indexAddr + x.toNat → exec (.ldStore x) s = .next { s with err := .addressFault, await := false })

/-- FX65 (section 2): I .. I + X to V0..VX; out of range AddressFault and nothing else (the spec's decisions D6, D13;
log 13). -/
def Obligations.LoadRegisterBlock : Prop :=
  ∀ (x : Nibble) (s : State),
    decodeWord (0xF#4 ++ x ++ 0x65#8) = some (.ldLoad x) ∧
    (s.indexAddr + x.toNat ≤ 0xFFF → ∃ t, exec (.ldLoad x) s = .next t ∧
      (∀ r, t.reg r = if r.toNat ≤ x.toNat then s.byte (s.indexAddr + r.toNat) else s.reg r) ∧
      t.pc = s.pc + 2 ∧ OnlyRegsAndPc s t) ∧
    (0xFFF < s.indexAddr + x.toNat → exec (.ldLoad x) s = .next { s with err := .addressFault, await := false })

/-! ### Display (spec/44_display.md) -/

/-- R130: clear the framebuffer. -/
def Obligations.ClearBlanksTheFramebuffer : Prop :=
  ∀ (s : State),
    decodeWord 0x00E0 = some .cls ∧
      ∃ t, exec .cls s = .next t ∧ (∀ x y, t.pixel x y = false) ∧ t.drawf = true ∧ t.pc = s.pc + 2 ∧
        KeepsRegs s t ∧ KeepsIndex s t ∧ KeepsStack s t ∧ KeepsTimers s t ∧ KeepsMemory s t ∧ KeepsStatus s t ∧
        KeepsParams s t ∧ KeepsInput s t

/-- DXYN (section 2): the framebuffer XOR the wrapped sprite mask; VF = 1 exactly when a set pixel lies under the mask; out of
range AddressFault and nothing else; N = 0 never faults (the spec's decisions D6, D16; log 13). -/
def Obligations.DrawXorsTheWrappedSprite : Prop :=
  ∀ (x y n : Nibble) (s : State),
    let m := spriteMask (s.spriteBytes n.toNat) (s.reg x) (s.reg y)
    decodeWord (0xD#4 ++ x ++ y ++ n) = some (.drw x y n) ∧
    (n.toNat = 0 ∨ s.i.toNat + n.toNat - 1 ≤ 0xFFF → ∃ t, exec (.drw x y n) s = .next t ∧
      (∀ px py, t.pixel px py = (s.pixel px py ^^ m px py)) ∧
      (∀ r, r ≠ 0xF → t.reg r = s.reg r) ∧
      (t.reg 0xF = 0 ∨ t.reg 0xF = 1) ∧
      (t.reg 0xF = 1 ↔ ∃ px py, s.pixel px py = true ∧ m px py = true) ∧
      t.drawf = true ∧ t.pc = s.pc + 2 ∧
      KeepsIndex s t ∧ KeepsStack s t ∧ KeepsTimers s t ∧ KeepsMemory s t ∧ KeepsStatus s t ∧ KeepsParams s t ∧
      KeepsInput s t) ∧
    (0 < n.toNat ∧ 0xFFF < s.i.toNat + n.toNat - 1 →
      exec (.drw x y n) s = .next { s with err := .addressFault, await := false })

/-- Drawing twice restores the framebuffer, and the second draw reports a collision exactly when the mask lies over a pixel
that was 0 before the first (R136, the spec's own derivation). -/
def Obligations.DrawingTwiceRestores : Prop :=
  ∀ (x y n : Nibble) (s : State), x ≠ 0xF → y ≠ 0xF → n.toNat = 0 ∨ s.i.toNat + n.toNat - 1 ≤ 0xFFF →
    let m := spriteMask (s.spriteBytes n.toNat) (s.reg x) (s.reg y)
    ∃ t u, exec (.drw x y n) s = .next t ∧ exec (.drw x y n) t = .next u ∧
      (∀ px py, u.pixel px py = s.pixel px py) ∧
      (u.reg 0xF = 1 ↔ ∃ px py, s.pixel px py = false ∧ m px py = true)

/-! ### Timers and keys (spec/45_timers_keys.md) -/

/-- R140, R141, R142: read DT, write DT, write ST; a value v written to ST gives its signal at the v-th following Tick and at no
other (when a Tick signals is the spec's decision D19; log 13). -/
def Obligations.TimerRegistersReadAndWritten : Prop :=
  ∀ (x : Nibble) (s : State),
    (decodeWord (0xF#4 ++ x ++ 0x07#8) = some (.ldGetDT x) ∧
      ∃ t, exec (.ldGetDT x) s = .next t ∧ (∀ r, t.reg r = if r = x then s.dt else s.reg r) ∧ t.pc = s.pc + 2 ∧
        OnlyRegsAndPc s t) ∧
    (decodeWord (0xF#4 ++ x ++ 0x15#8) = some (.ldSetDT x) ∧
      ∃ t, exec (.ldSetDT x) s = .next t ∧ t.dt = s.reg x ∧ t.st = s.st ∧ t.pc = s.pc + 2 ∧
        KeepsRegs s t ∧ KeepsIndex s t ∧ KeepsStack s t ∧ KeepsMemory s t ∧ KeepsDisplay s t ∧ KeepsStatus s t ∧
        KeepsParams s t ∧ KeepsInput s t) ∧
    (decodeWord (0xF#4 ++ x ++ 0x18#8) = some (.ldSetST x) ∧
      ∃ t, exec (.ldSetST x) s = .next t ∧ t.st = s.reg x ∧ t.dt = s.dt ∧ t.pc = s.pc + 2 ∧
        (∀ n, 0 < n → ((Nat.iterate State.tick n t).sndp = true ↔ n = (s.reg x).toNat)) ∧
        KeepsRegs s t ∧ KeepsIndex s t ∧ KeepsStack s t ∧ KeepsMemory s t ∧ KeepsDisplay s t ∧ KeepsStatus s t ∧
        KeepsParams s t ∧ KeepsInput s t)

/-- EX9E, EXA1 (section 2): the skips on the key the low nibble of VX names (the spec's decision D12; log 13). -/
def Obligations.SkipOnKey : Prop :=
  ∀ (x : Nibble) (s : State),
    (decodeWord (0xE#4 ++ x ++ 0x9E#8) = some (.skp x) ∧
      ∃ t, exec (.skp x) s = .next t ∧
        t.pc = (if s.keyDown (BitVec.ofNat 4 ((s.reg x).toNat % 16)) = true then s.pc + 4 else s.pc + 2) ∧
        OnlyPc s t) ∧
    (decodeWord (0xE#4 ++ x ++ 0xA1#8) = some (.sknp x) ∧
      ∃ t, exec (.sknp x) s = .next t ∧
        t.pc = (if s.keyDown (BitVec.ofNat 4 ((s.reg x).toNat % 16)) = false then s.pc + 4 else s.pc + 2) ∧
        OnlyPc s t)

/-- FX0A (section 3) with a key pressed: the smallest pressed index into V[X] (the spec's decision D11; log 13). -/
def Obligations.KeyReadStoresSmallestKey : Prop :=
  ∀ (x k : Nibble) (s : State), s.keyDown k = true → (∀ j : Nibble, j.toNat < k.toNat → s.keyDown j = false) →
    ∃ t, exec (.ldKey x) s = .next t ∧
      (∀ r, (t.reg r).toNat = if r = x then k.toNat else (s.reg r).toNat) ∧ t.pc = s.pc + 2 ∧ OnlyRegsAndPc s t

/-- FX0A (section 3) with no key pressed: the Step leaves pc on it and sets AWAIT, and nothing else, so that the next Step
does the same (the spec's decision D18; log 13). -/
def Obligations.KeyReadWaits : Prop :=
  ∀ (x : Nibble) (s : State), s.Running → s.pc.toNat ≤ 0xFFE → s.fetchWord = 0xF#4 ++ x ++ 0x0A#8 →
    (∀ k, s.keyDown k = false) →
    step s = .next { s with await := true } ∧ step { s with await := true } = .next { s with await := true }

/-! ### The Step (spec/40_step_cycle.md, spec/60_exceptions.md) -/

/-- A running block with pc in memory runs the instruction its two bytes decode to, and then writes AWAIT: 1 exactly when it was
FX0A with no key pressed (section 1). -/
def Obligations.StepRunsTheDecodedInstruction : Prop :=
  ∀ (s : State) (i : Instr), s.Running → s.pc.toNat ≤ 0xFFE →
    decode [s.byte s.pc.toNat, s.byte (s.pc.toNat + 1)] = .ok (i, []) →
    (∀ t, exec i s = .next t →
      step s = .next { t with await := isKeyWait i && decide (∀ k, s.keyDown k = false) }) ∧
    ∃ t, exec i s = .next t

/-- A halted block: a Step changes nothing and emits nothing (section 3; the spec's decision D7; log 13). -/
def Obligations.HaltedStepDoesNothing : Prop :=
  ∀ (s : State), s.err ≠ .none →
    step s = .next s ∧ ∀ b, s.rndIn = none → perform (.step b) s = .next (s, .stepped none)

/-- A running block (ERR code 0) with pc above 0xFFE: AddressFault, which changes ERR (to code 3) and AWAIT only, and no event
(section 1; the codes of spec/10_state.md R30; the spec's decisions D6, D7, D8; log 13). -/
def Obligations.UnfetchablePcFaults : Prop :=
  ∀ (s : State), s.Running → 0xFFE < s.pc.toNat →
    step s = .next { s with err := .addressFault, await := false } ∧ s.stepEvent = none ∧
      ErrCode.addressFault.code = 3 ∧ s.err.code = 0

/-- The unknown opcode: pc + 2 and AWAIT 0, nothing else, and the event with the address and the word (section 2; the event's
content is the spec's decision D9; log 5). -/
def Obligations.UnknownOpcodeIsSkippedAndReported : Prop :=
  ∀ (s : State) (b : Byte), s.Running → s.pc.toNat ≤ 0xFFE → s.rndIn = none → decodeWord s.fetchWord = none →
    step s = .next { s with pc := s.pc + 2, await := false } ∧
    perform (.step b) s =
      .next ({ s with pc := s.pc + 2, await := false },
        .stepped (some ⟨s.pc, s.byte s.pc.toNat ++ s.byte (s.pc.toNat + 1)⟩))

/-- An event is emitted by no other Step: its word is the one fetched at pc, and that word is unknown (spec/60_exceptions.md
section 4; the event's content is the spec's decision D9; log 5). -/
def Obligations.EventsOnlyFromUnknownOpcodes : Prop :=
  ∀ (s t : State) (b : Byte) (e : UnknownOpcode), perform (.step b) s = .next (t, .stepped (some e)) →
    s.Running ∧ s.pc.toNat ≤ 0xFFE ∧ e.addr = s.pc ∧ e.word = s.fetchWord ∧
      s.fetchWord = s.byte s.pc.toNat ++ s.byte (s.pc.toNat + 1) ∧ decodeWord e.word = none ∧
      t.pc = s.pc + 2 ∧ t.err = .none

/-- Every Step, from every state, has a next state, and so has every command: nothing stops the block (section 1: five
outcomes, each a state; log 4). -/
def Obligations.EveryStepAndCommandAnswers : Prop :=
  (∀ s : State, ∃ t, step s = .next t) ∧ (∀ (c : Command) (s : State), ∃ t r, perform c s = .next (t, r))

/-- AWAIT after any Step that found the block running (section 3; the spec's decision D18; log 13). -/
def Obligations.AwaitAfterEveryStep : Prop :=
  ∀ (s t : State), s.Running → step s = .next t →
    (t.await = true ↔
      s.pc.toNat ≤ 0xFFE ∧ (∃ x, decodeWord s.fetchWord = some (.ldKey x)) ∧ ∀ k, s.keyDown k = false)

/-- A Step that leaves an error has changed ERR and AWAIT only, and its cause is one of the seven of spec/60_exceptions.md
section 1 (the spec's decisions D6, D7; log 13). -/
def Obligations.FatalErrorsArePreciseAndCaused : Prop :=
  ∀ (s t : State), s.Running → step s = .next t → t.err ≠ .none →
    t = { s with err := t.err, await := false } ∧
    ((t.err = .stackOverflow ∧ s.sp.val = 16 ∧ ∃ nnn, decodeWord s.fetchWord = some (.call nnn)) ∨
     (t.err = .stackUnderflow ∧ s.sp.val = 0 ∧ decodeWord s.fetchWord = some .ret) ∨
     (t.err = .addressFault ∧
       (0xFFE < s.pc.toNat ∨
        (∃ x, decodeWord s.fetchWord = some (.ldBcd x) ∧ 0xFFF < s.i.toNat + 2) ∨
        (∃ x, decodeWord s.fetchWord = some (.ldStore x) ∧ 0xFFF < s.i.toNat + x.toNat) ∨
        (∃ x, decodeWord s.fetchWord = some (.ldLoad x) ∧ 0xFFF < s.i.toNat + x.toNat) ∨
        (∃ x y n, decodeWord s.fetchWord = some (.drw x y n) ∧ 0 < n.toNat ∧ 0xFFF < s.i.toNat + n.toNat - 1))))

/-- A jump to itself changes nothing (spec/00_scope.md R9, the spec's own derivation). -/
def Obligations.JumpToItselfIsStable : Prop :=
  ∀ (s : State) (nnn : Addr12), s.Running → s.await = false → s.pc.toNat = nnn.toNat → nnn.toNat ≤ 0xFFE →
    s.fetchWord = 0x1#4 ++ nnn → step s = .next s

/-- A store is fetched at once: an instruction word both of whose bytes FX55 has just written is the word the next Step
fetches (spec/20_memory.md section 6, R52, the spec's own derivation). -/
def Obligations.StoredCodeIsFetched : Prop :=
  ∀ (x : Nibble) (s t : State) (j : Nat), s.indexAddr + x.toNat ≤ 0xFFF → j < x.toNat →
    s.pc.toNat + 2 = s.indexAddr + j → exec (.ldStore x) s = .next t →
    t.fetchWord = s.reg (BitVec.ofNat 4 j) ++ s.reg (BitVec.ofNat 4 (j + 1))

/-! ### Whole-machine rules -/

/-- The invariant holds at reset, whatever the parameters. -/
def Obligations.InvariantHoldsAtReset : Prop :=
  (∀ c : Config, (State.resetWith c).Inv) ∧ State.reset.Inv

/-- Every Step keeps the invariant: canonical memory, live return addresses at most 0xFFE, pc at most 0x10FE, no wait while
halted (spec/10_state.md sections 4 and 5, R17 and R19, the spec's own derivations). -/
def Obligations.StepKeepsTheInvariant : Prop :=
  ∀ (s t : State), s.Inv → step s = .next t → t.Inv

/-- Every host command keeps the invariant (spec/46_host_commands.md section 1). -/
def Obligations.CommandsKeepTheInvariant : Prop :=
  ∀ (c : Command) (s t : State) (r : Response), s.Inv → perform c s = .next (t, r) → t.Inv

/-- A Step never writes the input latch, SNDP or the parameters, and never clears DRAWF or ERR (spec/46_host_commands.md
sections 1 and 4; spec/10_state.md sections 8 to 10). -/
def Obligations.StepLeavesTheHostsCells : Prop :=
  ∀ (s t : State), step s = .next t →
    t.key = s.key ∧ t.sndp = s.sndp ∧ t.cfg = s.cfg ∧ (s.drawf = true → t.drawf = true) ∧
      (s.err ≠ .none → t.err = s.err)

/-- Which instruction a Step that changed a cell has run: I by ANNN, FX1E, FX29; DT by FX15; ST by FX18; a memory byte by FX33 or
FX55; a pixel or DRAWF by 00E0 or DXYN; SP or a stack cell by 2NNN or 00EE (spec/10_state.md section 1, column "written by"). -/
def Obligations.CellsChangeOnlyByTheirWriters : Prop :=
  ∀ (s t : State), step s = .next t →
    (t.i ≠ s.i → (∃ n, decodeWord s.fetchWord = some (.ldIndex n)) ∨ (∃ x, decodeWord s.fetchWord = some (.addIndex x)) ∨
      (∃ x, decodeWord s.fetchWord = some (.ldFont x))) ∧
    (t.dt ≠ s.dt → ∃ x, decodeWord s.fetchWord = some (.ldSetDT x)) ∧
    (t.st ≠ s.st → ∃ x, decodeWord s.fetchWord = some (.ldSetST x)) ∧
    (t.mem ≠ s.mem → (∃ x, decodeWord s.fetchWord = some (.ldBcd x)) ∨
      (∃ x, decodeWord s.fetchWord = some (.ldStore x))) ∧
    (t.fb ≠ s.fb ∨ t.drawf ≠ s.drawf → decodeWord s.fetchWord = some .cls ∨
      (∃ x y n, decodeWord s.fetchWord = some (.drw x y n))) ∧
    (t.sp ≠ s.sp ∨ t.stack ≠ s.stack → decodeWord s.fetchWord = some .ret ∨
      (∃ n, decodeWord s.fetchWord = some (.call n)))

/-- What an instruction depends on: the random byte only CXKK; the keys only EX9E, EXA1, FX0A; DT only FX07
(spec/40_step_cycle.md section 3, R87). -/
def Obligations.InputsAreReadOnlyWhereNamed : Prop :=
  ∀ (i : Instr) (s t : State), exec i s = .next t →
    (∀ b c, (∀ x kk, i ≠ .rnd x kk) →
      exec i { s with rndIn := b, draws := c } = .next { t with rndIn := b, draws := c }) ∧
    (∀ k, (∀ x, i ≠ .skp x) → (∀ x, i ≠ .sknp x) → (∀ x, i ≠ .ldKey x) →
      exec i { s with key := k } = .next { t with key := k }) ∧
    (∀ d, (∀ x, i ≠ .ldGetDT x) → ∃ e, exec i { s with dt := d } = .next { t with dt := e })

/-- No Step depends on ST, SNDP, DRAWF or AWAIT: from two states that differ only there, the Steps lead to two states that
differ only there (spec/40_step_cycle.md section 3, R87). -/
def Obligations.StepIgnoresOutputCells : Prop :=
  ∀ (s t : State) (st : Byte) (sndp drawf aw : Bool), step s = .next t →
    ∃ u, step { s with st := st, sndp := sndp, drawf := drawf, await := aw } = .next u ∧
      u = { t with st := u.st, sndp := u.sndp, drawf := u.drawf, await := u.await }

/-! ### Host commands (spec/46_host_commands.md, spec/60_exceptions.md, spec/70_reset_and_hazards.md) -/

/-- Tick (spec/60_exceptions.md section 8): each timer down by one, clamped at 0, SNDP exactly when ST went from 1 to 0, whether
or not the block is halted; nothing else changes (the spec's decisions D19, D20; log 13). -/
def Obligations.TickCountsDownAndSignals : Prop :=
  ∀ (s : State), ∃ t, perform .tick s = .next (t, .done) ∧
    t.dt.toNat = s.dt.toNat - 1 ∧ t.st.toNat = s.st.toNat - 1 ∧ (t.sndp = true ↔ s.st.toNat = 1) ∧
    t = { s with dt := t.dt, st := t.st, sndp := t.sndp }

/-- R152, R153: Load writes the program bytes and nothing else, or fails on more than 3584 bytes and changes nothing. -/
def Obligations.LoadWritesTheProgramOrNothing : Prop :=
  ∀ (bytes : List Byte) (s : State),
    (bytes.length ≤ 3584 → ∃ t, perform (.load bytes) s = .next (t, .loaded none) ∧
      (∀ j (h : j < bytes.length), t.byte (0x200 + j) = bytes[j]) ∧
      (∀ a, a < 0x200 ∨ 0x200 + bytes.length ≤ a → t.byte a = s.byte a) ∧ t = { s with mem := t.mem }) ∧
    (3584 < bytes.length → perform (.load bytes) s = .next (s, .loaded (some .tooLong)))

/-- R155, R156: SetKey writes one key bit, ConsumeRedraw returns DRAWF and clears it; nothing else changes. -/
def Obligations.SetKeyAndConsumeRedraw : Prop :=
  ∀ (s : State),
    (∀ (k : Nibble) (p : Bool), ∃ t, perform (.setKey k p) s = .next (t, .done) ∧
      (∀ j, t.keyDown j = if j = k then p else s.keyDown j) ∧ t = { s with key := t.key }) ∧
    perform .consumeRedraw s = .next ({ s with drawf := false }, .redraw s.drawf)

/-- Reset (spec/70_reset_and_hazards.md section 1): every cell at its reset value, whatever the state before, the parameters
kept (pc = 0x200 is the spec's decision D5; the count of random bytes is the model's, log 9). -/
def Obligations.ResetGivesTheResetState : Prop :=
  ∀ (s : State), ∃ t, perform .reset s = .next (t, .done) ∧
    (∀ r, t.reg r = 0) ∧ t.i = 0 ∧ t.pc = 0x200 ∧ t.sp = 0 ∧ (∀ j, t.stackAt j = 0) ∧ t.dt = 0 ∧ t.st = 0 ∧
    (∀ j : Fin 80, t.byte (s.cfg.fontBase.val + j.val) = s.cfg.font[j.val]) ∧
    (∀ a, a < s.cfg.fontBase.val ∨ s.cfg.fontBase.val + 80 ≤ a → t.byte a = 0) ∧
    (∀ x y, t.pixel x y = false) ∧ (∀ k, t.keyDown k = false) ∧ t.drawf = false ∧ t.sndp = false ∧
    t.await = false ∧ t.err = .none ∧ t.cfg = s.cfg ∧ t.draws = s.draws

/-- The first Step after Reset with nothing loaded meets the unknown word 0x0000 at 0x200 (spec/70_reset_and_hazards.md
section 2, R206, the spec's own derivation). -/
def Obligations.FirstStepWithoutProgramIsUnknown : Prop :=
  ∀ (c : Config) (b : Byte), perform (.step b) (State.resetWith c) =
    .next ({ State.resetWith c with pc := 0x202 }, .stepped (some ⟨0x200, 0x0000⟩))

/-- The Step command uses its random byte: CXKK at pc puts exactly that byte, masked, into V[X] (spec/42_alu.md section 4;
spec/40_step_cycle.md section 1; the input's form is the spec's decision D10; log 2). -/
def Obligations.StepCommandSuppliesTheRandomByte : Prop :=
  ∀ (x : Nibble) (kk b : Byte) (s : State), s.Running → s.pc.toNat ≤ 0xFFE → s.fetchWord = 0xC#4 ++ x ++ kk →
    ∃ t, perform (.step b) s = .next (t, .stepped none) ∧ t.reg x = b &&& kk ∧ t.pc = s.pc + 2 ∧ t.rndIn = none

/-- The port binding adds no behaviour: each accepted command is the command of the same name, no operation changes nothing, and
nothing but an accepted Step raises an event (section 5; spec/60_exceptions.md R176; the spec's decisions D1, D9). That the
block is ready again after each call is the model's choice (log 12). -/
def Obligations.PortCyclesAreCommands : Prop :=
  ∀ (p : PortIn) (s : State), ∃ t o, portCycle p s = .next (t, o) ∧
    (p.cmdValid = false ∨ p.cmd = 0 ∨ p.cmd = 7 → t = s) ∧
    (p.cmdValid = false ∨ p.cmd ≠ 2 → o.unk = none) ∧
    (p.cmdValid = true → p.cmd = 1 → ∃ r, perform .reset s = .next (t, r)) ∧
    (p.cmdValid = true → p.cmd = 2 → perform (.step p.rnd) s = .next (t, .stepped o.unk)) ∧
    (p.cmdValid = true → p.cmd = 3 → ∃ r, perform .tick s = .next (t, r)) ∧
    (p.cmdValid = true → p.cmd = 4 → ∃ r, perform (.setKey p.keyIdx p.keyVal) s = .next (t, r)) ∧
    (p.cmdValid = true → p.cmd = 5 → perform .consumeRedraw s = .next (t, .redraw (s.portOut p none).redraw)) ∧
    (p.cmdValid = true → p.cmd = 6 →
      (∀ a, t.byte a = if a = p.ldAddr.toNat ∧ 0x200 ≤ a then p.ldData else s.byte a) ∧ t = { s with mem := t.mem }) ∧
    o.cmdReady = true ∧ o.fbPixel = t.pixel p.fbX.toFin p.fbY.toFin ∧ o.redraw = t.drawf ∧ o.sndPending = t.sndp ∧
    o.err = t.err.code ∧ o.awaitKey = t.await ∧ o.pcOut = t.pc

/-- Load is the capacity check and then one LoadByte per byte, at 0x200 + j (section 5, the row of `ld_addr`; the port binding and
its LoadByte are the spec's decision D1; that a Load through the ports is such a run is log 12). -/
def Obligations.LoadIsARunOfLoadBytes : Prop :=
  ∀ (bytes : List Byte) (s t : State), s.load bytes = .ok t →
    t = (List.range bytes.length).foldl
      (fun u j => u.loadByte (BitVec.ofNat 12 (0x200 + j)) (bytes.getD j 0)) s
end

