-- ==== Sys2Proof/Laws/Encoding.lean ====
section
/-! SUPPORT. The fields of an encoded word (spec/30_encoding.md R61, R62): each field of each format reads back as it was put
in; and a word is its fields put together again. -/

namespace Sys2Proof

/-! ### The bits of an encoded word -/

theorem getLsbD_encNNN (op : Nibble) (nnn : Addr12) (k : Nat) :
    (encNNN op nnn).getLsbD k = if k < 12 then nnn.getLsbD k else op.getLsbD (k - 12) :=
  BitVec.getLsbD_append

theorem getLsbD_encXKK (op x : Nibble) (kk : Byte) (k : Nat) :
    (encXKK op x kk).getLsbD k =
      if k < 8 then kk.getLsbD k else if k < 12 then x.getLsbD (k - 8) else op.getLsbD (k - 12) := by
  refine (BitVec.getLsbD_append (x := op ++ x) (y := kk)).trans ?_
  rw [BitVec.getLsbD_append, show k - 8 - 4 = k - 12 by omega]
  split
  · rfl
  · split <;> split <;> first | rfl | omega

theorem getLsbD_encXYN (op x y n : Nibble) (k : Nat) :
    (encXYN op x y n).getLsbD k =
      if k < 4 then n.getLsbD k else if k < 8 then y.getLsbD (k - 4)
      else if k < 12 then x.getLsbD (k - 8) else op.getLsbD (k - 12) := by
  refine (BitVec.getLsbD_append (x := op ++ x ++ y) (y := n)).trans ?_
  rw [BitVec.getLsbD_append, BitVec.getLsbD_append, show k - 4 - 4 = k - 8 by omega,
    show k - 8 - 4 = k - 12 by omega]
  by_cases h4 : k < 4
  · rw [if_pos h4, if_pos h4]
  · by_cases h8 : k < 8
    · rw [if_neg h4, if_neg h4, if_pos h8, if_pos (by omega)]
    · by_cases h12 : k < 12
      · rw [if_neg h4, if_neg h4, if_neg h8, if_pos h12, if_neg (by omega), if_pos (by omega)]
      · rw [if_neg h4, if_neg h4, if_neg h8, if_neg h12, if_neg (by omega), if_neg (by omega)]

theorem getLsbD_wordOfBytes (hi lo : Byte) (k : Nat) :
    (wordOfBytes hi lo).getLsbD k = if k < 8 then lo.getLsbD k else hi.getLsbD (k - 8) :=
  BitVec.getLsbD_append

/-! ### Field by field -/

@[simp] theorem fieldOP_encNNN (op : Nibble) (nnn : Addr12) : fieldOP (encNNN op nnn) = op := by
  apply BitVec.eq_of_getLsbD_eq
  intro k hk
  simp only [fieldOP, BitVec.getLsbD_extractLsb', getLsbD_encNNN, hk, decide_true, Bool.true_and]
  rw [if_neg (by omega), Nat.add_sub_cancel_left]

@[simp] theorem fieldNNN_encNNN (op : Nibble) (nnn : Addr12) : fieldNNN (encNNN op nnn) = nnn := by
  apply BitVec.eq_of_getLsbD_eq
  intro k hk
  simp only [fieldNNN, BitVec.getLsbD_extractLsb', getLsbD_encNNN, hk, decide_true, Bool.true_and]
  rw [if_pos (by omega), Nat.zero_add]

@[simp] theorem fieldOP_encXKK (op x : Nibble) (kk : Byte) : fieldOP (encXKK op x kk) = op := by
  apply BitVec.eq_of_getLsbD_eq
  intro k hk
  simp only [fieldOP, BitVec.getLsbD_extractLsb', getLsbD_encXKK, hk, decide_true, Bool.true_and]
  rw [if_neg (by omega), if_neg (by omega), Nat.add_sub_cancel_left]

@[simp] theorem fieldX_encXKK (op x : Nibble) (kk : Byte) : fieldX (encXKK op x kk) = x := by
  apply BitVec.eq_of_getLsbD_eq
  intro k hk
  simp only [fieldX, BitVec.getLsbD_extractLsb', getLsbD_encXKK, hk, decide_true, Bool.true_and]
  rw [if_neg (by omega), if_pos (by omega), Nat.add_sub_cancel_left]

@[simp] theorem fieldKK_encXKK (op x : Nibble) (kk : Byte) : fieldKK (encXKK op x kk) = kk := by
  apply BitVec.eq_of_getLsbD_eq
  intro k hk
  simp only [fieldKK, BitVec.getLsbD_extractLsb', getLsbD_encXKK, hk, decide_true, Bool.true_and]
  rw [if_pos (by omega), Nat.zero_add]

@[simp] theorem fieldOP_encXYN (op x y n : Nibble) : fieldOP (encXYN op x y n) = op := by
  apply BitVec.eq_of_getLsbD_eq
  intro k hk
  simp only [fieldOP, BitVec.getLsbD_extractLsb', getLsbD_encXYN, hk, decide_true, Bool.true_and]
  rw [if_neg (by omega), if_neg (by omega), if_neg (by omega), Nat.add_sub_cancel_left]

@[simp] theorem fieldX_encXYN (op x y n : Nibble) : fieldX (encXYN op x y n) = x := by
  apply BitVec.eq_of_getLsbD_eq
  intro k hk
  simp only [fieldX, BitVec.getLsbD_extractLsb', getLsbD_encXYN, hk, decide_true, Bool.true_and]
  rw [if_neg (by omega), if_neg (by omega), if_pos (by omega), Nat.add_sub_cancel_left]

@[simp] theorem fieldY_encXYN (op x y n : Nibble) : fieldY (encXYN op x y n) = y := by
  apply BitVec.eq_of_getLsbD_eq
  intro k hk
  simp only [fieldY, BitVec.getLsbD_extractLsb', getLsbD_encXYN, hk, decide_true, Bool.true_and]
  rw [if_neg (by omega), if_pos (by omega), Nat.add_sub_cancel_left]

@[simp] theorem fieldN_encXYN (op x y n : Nibble) : fieldN (encXYN op x y n) = n := by
  apply BitVec.eq_of_getLsbD_eq
  intro k hk
  simp only [fieldN, BitVec.getLsbD_extractLsb', getLsbD_encXYN, hk, decide_true, Bool.true_and]
  rw [if_pos (by omega), Nat.zero_add]

/-! ### A word is its fields -/

/-- A word is its class and its address. -/
theorem encNNN_fields (w : Word) : encNNN (fieldOP w) (fieldNNN w) = w := by
  apply BitVec.eq_of_getLsbD_eq
  intro k hk
  simp only [getLsbD_encNNN, fieldOP, fieldNNN, BitVec.getLsbD_extractLsb']
  split
  · simp [*]
  · rw [show 12 + (k - 12) = k by omega]; simp; omega

/-- A word is its class, its register and its byte. -/
theorem encXKK_fields (w : Word) : encXKK (fieldOP w) (fieldX w) (fieldKK w) = w := by
  apply BitVec.eq_of_getLsbD_eq
  intro k hk
  simp only [getLsbD_encXKK, fieldOP, fieldX, fieldKK, BitVec.getLsbD_extractLsb']
  split
  · simp [*]
  · split
    · rw [show 8 + (k - 8) = k by omega]; simp; omega
    · rw [show 12 + (k - 12) = k by omega]; simp; omega

/-- A word is its four nibbles. -/
theorem encXYN_fields (w : Word) : encXYN (fieldOP w) (fieldX w) (fieldY w) (fieldN w) = w := by
  apply BitVec.eq_of_getLsbD_eq
  intro k hk
  simp only [getLsbD_encXYN, fieldOP, fieldX, fieldY, fieldN, BitVec.getLsbD_extractLsb']
  split
  · simp [*]
  · split
    · rw [show 4 + (k - 4) = k by omega]; simp; omega
    · split
      · rw [show 8 + (k - 8) = k by omega]; simp; omega
      · rw [show 12 + (k - 12) = k by omega]; simp; omega

/-- A word is the word of its two bytes. -/
@[simp] theorem wordOfBytes_bytes (w : Word) : wordOfBytes (w.extractLsb' 8 8) (w.extractLsb' 0 8) = w := by
  apply BitVec.eq_of_getLsbD_eq
  intro k hk
  simp only [getLsbD_wordOfBytes, BitVec.getLsbD_extractLsb']
  split
  · simp [*]
  · rw [show 8 + (k - 8) = k by omega]; simp; omega

/-- Every term of `Instr` is well-formed: its fields have the widths of the encoding (R63, R69). -/
theorem Instr.wellFormed_all (i : Instr) : i.wellFormed = true := by
  cases i <;> simp [Instr.wellFormed, Instr.format, Instr.fields, Format.accepts] <;> omega

end Sys2Proof
end

