-- ==== Sys2Proof/Laws/State.lean ====
section
/-! SUPPORT. Every field of State after every named update, true by rfl, so that no later proof unfolds a record update. -/

namespace Sys2Proof.Machine

variable (s : State)

/-! ### setReg -/

@[simp] theorem State.setReg_v (r : Nibble) (b : Byte) : (s.setReg r b).v = s.v.set r.toNat b r.isLt := rfl
@[simp] theorem State.setReg_i (r : Nibble) (b : Byte) : (s.setReg r b).i = s.i := rfl
@[simp] theorem State.setReg_pc (r : Nibble) (b : Byte) : (s.setReg r b).pc = s.pc := rfl
@[simp] theorem State.setReg_sp (r : Nibble) (b : Byte) : (s.setReg r b).sp = s.sp := rfl
@[simp] theorem State.setReg_stack (r : Nibble) (b : Byte) : (s.setReg r b).stack = s.stack := rfl
@[simp] theorem State.setReg_dt (r : Nibble) (b : Byte) : (s.setReg r b).dt = s.dt := rfl
@[simp] theorem State.setReg_st (r : Nibble) (b : Byte) : (s.setReg r b).st = s.st := rfl
@[simp] theorem State.setReg_mem (r : Nibble) (b : Byte) : (s.setReg r b).mem = s.mem := rfl
@[simp] theorem State.setReg_fb (r : Nibble) (b : Byte) : (s.setReg r b).fb = s.fb := rfl
@[simp] theorem State.setReg_key (r : Nibble) (b : Byte) : (s.setReg r b).key = s.key := rfl
@[simp] theorem State.setReg_drawf (r : Nibble) (b : Byte) : (s.setReg r b).drawf = s.drawf := rfl
@[simp] theorem State.setReg_sndp (r : Nibble) (b : Byte) : (s.setReg r b).sndp = s.sndp := rfl
@[simp] theorem State.setReg_await (r : Nibble) (b : Byte) : (s.setReg r b).await = s.await := rfl
@[simp] theorem State.setReg_err (r : Nibble) (b : Byte) : (s.setReg r b).err = s.err := rfl
@[simp] theorem State.setReg_cfg (r : Nibble) (b : Byte) : (s.setReg r b).cfg = s.cfg := rfl
@[simp] theorem State.setReg_rndIn (r : Nibble) (b : Byte) : (s.setReg r b).rndIn = s.rndIn := rfl
@[simp] theorem State.setReg_draws (r : Nibble) (b : Byte) : (s.setReg r b).draws = s.draws := rfl

/-! ### setRegFlag -/

@[simp] theorem State.setRegFlag_v (x : Nibble) (b : Byte) (f : Bool) : (s.setRegFlag x b f).v = (s.v.set x.toNat b x.isLt).set 15 (flagByte f) := rfl
@[simp] theorem State.setRegFlag_i (x : Nibble) (b : Byte) (f : Bool) : (s.setRegFlag x b f).i = s.i := rfl
@[simp] theorem State.setRegFlag_pc (x : Nibble) (b : Byte) (f : Bool) : (s.setRegFlag x b f).pc = s.pc := rfl
@[simp] theorem State.setRegFlag_sp (x : Nibble) (b : Byte) (f : Bool) : (s.setRegFlag x b f).sp = s.sp := rfl
@[simp] theorem State.setRegFlag_stack (x : Nibble) (b : Byte) (f : Bool) : (s.setRegFlag x b f).stack = s.stack := rfl
@[simp] theorem State.setRegFlag_dt (x : Nibble) (b : Byte) (f : Bool) : (s.setRegFlag x b f).dt = s.dt := rfl
@[simp] theorem State.setRegFlag_st (x : Nibble) (b : Byte) (f : Bool) : (s.setRegFlag x b f).st = s.st := rfl
@[simp] theorem State.setRegFlag_mem (x : Nibble) (b : Byte) (f : Bool) : (s.setRegFlag x b f).mem = s.mem := rfl
@[simp] theorem State.setRegFlag_fb (x : Nibble) (b : Byte) (f : Bool) : (s.setRegFlag x b f).fb = s.fb := rfl
@[simp] theorem State.setRegFlag_key (x : Nibble) (b : Byte) (f : Bool) : (s.setRegFlag x b f).key = s.key := rfl
@[simp] theorem State.setRegFlag_drawf (x : Nibble) (b : Byte) (f : Bool) : (s.setRegFlag x b f).drawf = s.drawf := rfl
@[simp] theorem State.setRegFlag_sndp (x : Nibble) (b : Byte) (f : Bool) : (s.setRegFlag x b f).sndp = s.sndp := rfl
@[simp] theorem State.setRegFlag_await (x : Nibble) (b : Byte) (f : Bool) : (s.setRegFlag x b f).await = s.await := rfl
@[simp] theorem State.setRegFlag_err (x : Nibble) (b : Byte) (f : Bool) : (s.setRegFlag x b f).err = s.err := rfl
@[simp] theorem State.setRegFlag_cfg (x : Nibble) (b : Byte) (f : Bool) : (s.setRegFlag x b f).cfg = s.cfg := rfl
@[simp] theorem State.setRegFlag_rndIn (x : Nibble) (b : Byte) (f : Bool) : (s.setRegFlag x b f).rndIn = s.rndIn := rfl
@[simp] theorem State.setRegFlag_draws (x : Nibble) (b : Byte) (f : Bool) : (s.setRegFlag x b f).draws = s.draws := rfl

/-! ### setIndex -/

@[simp] theorem State.setIndex_v (w : Word) : (s.setIndex w).v = s.v := rfl
@[simp] theorem State.setIndex_i (w : Word) : (s.setIndex w).i = w := rfl
@[simp] theorem State.setIndex_pc (w : Word) : (s.setIndex w).pc = s.pc := rfl
@[simp] theorem State.setIndex_sp (w : Word) : (s.setIndex w).sp = s.sp := rfl
@[simp] theorem State.setIndex_stack (w : Word) : (s.setIndex w).stack = s.stack := rfl
@[simp] theorem State.setIndex_dt (w : Word) : (s.setIndex w).dt = s.dt := rfl
@[simp] theorem State.setIndex_st (w : Word) : (s.setIndex w).st = s.st := rfl
@[simp] theorem State.setIndex_mem (w : Word) : (s.setIndex w).mem = s.mem := rfl
@[simp] theorem State.setIndex_fb (w : Word) : (s.setIndex w).fb = s.fb := rfl
@[simp] theorem State.setIndex_key (w : Word) : (s.setIndex w).key = s.key := rfl
@[simp] theorem State.setIndex_drawf (w : Word) : (s.setIndex w).drawf = s.drawf := rfl
@[simp] theorem State.setIndex_sndp (w : Word) : (s.setIndex w).sndp = s.sndp := rfl
@[simp] theorem State.setIndex_await (w : Word) : (s.setIndex w).await = s.await := rfl
@[simp] theorem State.setIndex_err (w : Word) : (s.setIndex w).err = s.err := rfl
@[simp] theorem State.setIndex_cfg (w : Word) : (s.setIndex w).cfg = s.cfg := rfl
@[simp] theorem State.setIndex_rndIn (w : Word) : (s.setIndex w).rndIn = s.rndIn := rfl
@[simp] theorem State.setIndex_draws (w : Word) : (s.setIndex w).draws = s.draws := rfl

/-! ### setPc -/

@[simp] theorem State.setPc_v (w : Word) : (s.setPc w).v = s.v := rfl
@[simp] theorem State.setPc_i (w : Word) : (s.setPc w).i = s.i := rfl
@[simp] theorem State.setPc_pc (w : Word) : (s.setPc w).pc = w := rfl
@[simp] theorem State.setPc_sp (w : Word) : (s.setPc w).sp = s.sp := rfl
@[simp] theorem State.setPc_stack (w : Word) : (s.setPc w).stack = s.stack := rfl
@[simp] theorem State.setPc_dt (w : Word) : (s.setPc w).dt = s.dt := rfl
@[simp] theorem State.setPc_st (w : Word) : (s.setPc w).st = s.st := rfl
@[simp] theorem State.setPc_mem (w : Word) : (s.setPc w).mem = s.mem := rfl
@[simp] theorem State.setPc_fb (w : Word) : (s.setPc w).fb = s.fb := rfl
@[simp] theorem State.setPc_key (w : Word) : (s.setPc w).key = s.key := rfl
@[simp] theorem State.setPc_drawf (w : Word) : (s.setPc w).drawf = s.drawf := rfl
@[simp] theorem State.setPc_sndp (w : Word) : (s.setPc w).sndp = s.sndp := rfl
@[simp] theorem State.setPc_await (w : Word) : (s.setPc w).await = s.await := rfl
@[simp] theorem State.setPc_err (w : Word) : (s.setPc w).err = s.err := rfl
@[simp] theorem State.setPc_cfg (w : Word) : (s.setPc w).cfg = s.cfg := rfl
@[simp] theorem State.setPc_rndIn (w : Word) : (s.setPc w).rndIn = s.rndIn := rfl
@[simp] theorem State.setPc_draws (w : Word) : (s.setPc w).draws = s.draws := rfl

/-! ### advance -/

@[simp] theorem State.advance_v (n : Nat) : (s.advance n).v = s.v := rfl
@[simp] theorem State.advance_i (n : Nat) : (s.advance n).i = s.i := rfl
@[simp] theorem State.advance_pc (n : Nat) : (s.advance n).pc = s.pc + BitVec.ofNat 16 n := rfl
@[simp] theorem State.advance_sp (n : Nat) : (s.advance n).sp = s.sp := rfl
@[simp] theorem State.advance_stack (n : Nat) : (s.advance n).stack = s.stack := rfl
@[simp] theorem State.advance_dt (n : Nat) : (s.advance n).dt = s.dt := rfl
@[simp] theorem State.advance_st (n : Nat) : (s.advance n).st = s.st := rfl
@[simp] theorem State.advance_mem (n : Nat) : (s.advance n).mem = s.mem := rfl
@[simp] theorem State.advance_fb (n : Nat) : (s.advance n).fb = s.fb := rfl
@[simp] theorem State.advance_key (n : Nat) : (s.advance n).key = s.key := rfl
@[simp] theorem State.advance_drawf (n : Nat) : (s.advance n).drawf = s.drawf := rfl
@[simp] theorem State.advance_sndp (n : Nat) : (s.advance n).sndp = s.sndp := rfl
@[simp] theorem State.advance_await (n : Nat) : (s.advance n).await = s.await := rfl
@[simp] theorem State.advance_err (n : Nat) : (s.advance n).err = s.err := rfl
@[simp] theorem State.advance_cfg (n : Nat) : (s.advance n).cfg = s.cfg := rfl
@[simp] theorem State.advance_rndIn (n : Nat) : (s.advance n).rndIn = s.rndIn := rfl
@[simp] theorem State.advance_draws (n : Nat) : (s.advance n).draws = s.draws := rfl

/-! ### raise -/

@[simp] theorem State.raise_v (e : ErrCode) : (s.raise e).v = s.v := rfl
@[simp] theorem State.raise_i (e : ErrCode) : (s.raise e).i = s.i := rfl
@[simp] theorem State.raise_pc (e : ErrCode) : (s.raise e).pc = s.pc := rfl
@[simp] theorem State.raise_sp (e : ErrCode) : (s.raise e).sp = s.sp := rfl
@[simp] theorem State.raise_stack (e : ErrCode) : (s.raise e).stack = s.stack := rfl
@[simp] theorem State.raise_dt (e : ErrCode) : (s.raise e).dt = s.dt := rfl
@[simp] theorem State.raise_st (e : ErrCode) : (s.raise e).st = s.st := rfl
@[simp] theorem State.raise_mem (e : ErrCode) : (s.raise e).mem = s.mem := rfl
@[simp] theorem State.raise_fb (e : ErrCode) : (s.raise e).fb = s.fb := rfl
@[simp] theorem State.raise_key (e : ErrCode) : (s.raise e).key = s.key := rfl
@[simp] theorem State.raise_drawf (e : ErrCode) : (s.raise e).drawf = s.drawf := rfl
@[simp] theorem State.raise_sndp (e : ErrCode) : (s.raise e).sndp = s.sndp := rfl
@[simp] theorem State.raise_await (e : ErrCode) : (s.raise e).await = false := rfl
@[simp] theorem State.raise_err (e : ErrCode) : (s.raise e).err = e := rfl
@[simp] theorem State.raise_cfg (e : ErrCode) : (s.raise e).cfg = s.cfg := rfl
@[simp] theorem State.raise_rndIn (e : ErrCode) : (s.raise e).rndIn = s.rndIn := rfl
@[simp] theorem State.raise_draws (e : ErrCode) : (s.raise e).draws = s.draws := rfl

/-! ### setDT -/

@[simp] theorem State.setDT_v (b : Byte) : (s.setDT b).v = s.v := rfl
@[simp] theorem State.setDT_i (b : Byte) : (s.setDT b).i = s.i := rfl
@[simp] theorem State.setDT_pc (b : Byte) : (s.setDT b).pc = s.pc := rfl
@[simp] theorem State.setDT_sp (b : Byte) : (s.setDT b).sp = s.sp := rfl
@[simp] theorem State.setDT_stack (b : Byte) : (s.setDT b).stack = s.stack := rfl
@[simp] theorem State.setDT_dt (b : Byte) : (s.setDT b).dt = b := rfl
@[simp] theorem State.setDT_st (b : Byte) : (s.setDT b).st = s.st := rfl
@[simp] theorem State.setDT_mem (b : Byte) : (s.setDT b).mem = s.mem := rfl
@[simp] theorem State.setDT_fb (b : Byte) : (s.setDT b).fb = s.fb := rfl
@[simp] theorem State.setDT_key (b : Byte) : (s.setDT b).key = s.key := rfl
@[simp] theorem State.setDT_drawf (b : Byte) : (s.setDT b).drawf = s.drawf := rfl
@[simp] theorem State.setDT_sndp (b : Byte) : (s.setDT b).sndp = s.sndp := rfl
@[simp] theorem State.setDT_await (b : Byte) : (s.setDT b).await = s.await := rfl
@[simp] theorem State.setDT_err (b : Byte) : (s.setDT b).err = s.err := rfl
@[simp] theorem State.setDT_cfg (b : Byte) : (s.setDT b).cfg = s.cfg := rfl
@[simp] theorem State.setDT_rndIn (b : Byte) : (s.setDT b).rndIn = s.rndIn := rfl
@[simp] theorem State.setDT_draws (b : Byte) : (s.setDT b).draws = s.draws := rfl

/-! ### setST -/

@[simp] theorem State.setST_v (b : Byte) : (s.setST b).v = s.v := rfl
@[simp] theorem State.setST_i (b : Byte) : (s.setST b).i = s.i := rfl
@[simp] theorem State.setST_pc (b : Byte) : (s.setST b).pc = s.pc := rfl
@[simp] theorem State.setST_sp (b : Byte) : (s.setST b).sp = s.sp := rfl
@[simp] theorem State.setST_stack (b : Byte) : (s.setST b).stack = s.stack := rfl
@[simp] theorem State.setST_dt (b : Byte) : (s.setST b).dt = s.dt := rfl
@[simp] theorem State.setST_st (b : Byte) : (s.setST b).st = b := rfl
@[simp] theorem State.setST_mem (b : Byte) : (s.setST b).mem = s.mem := rfl
@[simp] theorem State.setST_fb (b : Byte) : (s.setST b).fb = s.fb := rfl
@[simp] theorem State.setST_key (b : Byte) : (s.setST b).key = s.key := rfl
@[simp] theorem State.setST_drawf (b : Byte) : (s.setST b).drawf = s.drawf := rfl
@[simp] theorem State.setST_sndp (b : Byte) : (s.setST b).sndp = s.sndp := rfl
@[simp] theorem State.setST_await (b : Byte) : (s.setST b).await = s.await := rfl
@[simp] theorem State.setST_err (b : Byte) : (s.setST b).err = s.err := rfl
@[simp] theorem State.setST_cfg (b : Byte) : (s.setST b).cfg = s.cfg := rfl
@[simp] theorem State.setST_rndIn (b : Byte) : (s.setST b).rndIn = s.rndIn := rfl
@[simp] theorem State.setST_draws (b : Byte) : (s.setST b).draws = s.draws := rfl

/-! ### setDisplay -/

@[simp] theorem State.setDisplay_v (fb : Framebuffer) : (s.setDisplay fb).v = s.v := rfl
@[simp] theorem State.setDisplay_i (fb : Framebuffer) : (s.setDisplay fb).i = s.i := rfl
@[simp] theorem State.setDisplay_pc (fb : Framebuffer) : (s.setDisplay fb).pc = s.pc := rfl
@[simp] theorem State.setDisplay_sp (fb : Framebuffer) : (s.setDisplay fb).sp = s.sp := rfl
@[simp] theorem State.setDisplay_stack (fb : Framebuffer) : (s.setDisplay fb).stack = s.stack := rfl
@[simp] theorem State.setDisplay_dt (fb : Framebuffer) : (s.setDisplay fb).dt = s.dt := rfl
@[simp] theorem State.setDisplay_st (fb : Framebuffer) : (s.setDisplay fb).st = s.st := rfl
@[simp] theorem State.setDisplay_mem (fb : Framebuffer) : (s.setDisplay fb).mem = s.mem := rfl
@[simp] theorem State.setDisplay_fb (fb : Framebuffer) : (s.setDisplay fb).fb = fb := rfl
@[simp] theorem State.setDisplay_key (fb : Framebuffer) : (s.setDisplay fb).key = s.key := rfl
@[simp] theorem State.setDisplay_drawf (fb : Framebuffer) : (s.setDisplay fb).drawf = true := rfl
@[simp] theorem State.setDisplay_sndp (fb : Framebuffer) : (s.setDisplay fb).sndp = s.sndp := rfl
@[simp] theorem State.setDisplay_await (fb : Framebuffer) : (s.setDisplay fb).await = s.await := rfl
@[simp] theorem State.setDisplay_err (fb : Framebuffer) : (s.setDisplay fb).err = s.err := rfl
@[simp] theorem State.setDisplay_cfg (fb : Framebuffer) : (s.setDisplay fb).cfg = s.cfg := rfl
@[simp] theorem State.setDisplay_rndIn (fb : Framebuffer) : (s.setDisplay fb).rndIn = s.rndIn := rfl
@[simp] theorem State.setDisplay_draws (fb : Framebuffer) : (s.setDisplay fb).draws = s.draws := rfl

/-! ### setKeyBit -/

@[simp] theorem State.setKeyBit_v (k : Nibble) (p : Bool) : (s.setKeyBit k p).v = s.v := rfl
@[simp] theorem State.setKeyBit_i (k : Nibble) (p : Bool) : (s.setKeyBit k p).i = s.i := rfl
@[simp] theorem State.setKeyBit_pc (k : Nibble) (p : Bool) : (s.setKeyBit k p).pc = s.pc := rfl
@[simp] theorem State.setKeyBit_sp (k : Nibble) (p : Bool) : (s.setKeyBit k p).sp = s.sp := rfl
@[simp] theorem State.setKeyBit_stack (k : Nibble) (p : Bool) : (s.setKeyBit k p).stack = s.stack := rfl
@[simp] theorem State.setKeyBit_dt (k : Nibble) (p : Bool) : (s.setKeyBit k p).dt = s.dt := rfl
@[simp] theorem State.setKeyBit_st (k : Nibble) (p : Bool) : (s.setKeyBit k p).st = s.st := rfl
@[simp] theorem State.setKeyBit_mem (k : Nibble) (p : Bool) : (s.setKeyBit k p).mem = s.mem := rfl
@[simp] theorem State.setKeyBit_fb (k : Nibble) (p : Bool) : (s.setKeyBit k p).fb = s.fb := rfl
@[simp] theorem State.setKeyBit_key (k : Nibble) (p : Bool) : (s.setKeyBit k p).key = s.key.set k.toNat p k.isLt := rfl
@[simp] theorem State.setKeyBit_drawf (k : Nibble) (p : Bool) : (s.setKeyBit k p).drawf = s.drawf := rfl
@[simp] theorem State.setKeyBit_sndp (k : Nibble) (p : Bool) : (s.setKeyBit k p).sndp = s.sndp := rfl
@[simp] theorem State.setKeyBit_await (k : Nibble) (p : Bool) : (s.setKeyBit k p).await = s.await := rfl
@[simp] theorem State.setKeyBit_err (k : Nibble) (p : Bool) : (s.setKeyBit k p).err = s.err := rfl
@[simp] theorem State.setKeyBit_cfg (k : Nibble) (p : Bool) : (s.setKeyBit k p).cfg = s.cfg := rfl
@[simp] theorem State.setKeyBit_rndIn (k : Nibble) (p : Bool) : (s.setKeyBit k p).rndIn = s.rndIn := rfl
@[simp] theorem State.setKeyBit_draws (k : Nibble) (p : Bool) : (s.setKeyBit k p).draws = s.draws := rfl

/-! ### takeRnd -/

@[simp] theorem State.takeRnd_v : s.takeRnd.v = s.v := rfl
@[simp] theorem State.takeRnd_i : s.takeRnd.i = s.i := rfl
@[simp] theorem State.takeRnd_pc : s.takeRnd.pc = s.pc := rfl
@[simp] theorem State.takeRnd_sp : s.takeRnd.sp = s.sp := rfl
@[simp] theorem State.takeRnd_stack : s.takeRnd.stack = s.stack := rfl
@[simp] theorem State.takeRnd_dt : s.takeRnd.dt = s.dt := rfl
@[simp] theorem State.takeRnd_st : s.takeRnd.st = s.st := rfl
@[simp] theorem State.takeRnd_mem : s.takeRnd.mem = s.mem := rfl
@[simp] theorem State.takeRnd_fb : s.takeRnd.fb = s.fb := rfl
@[simp] theorem State.takeRnd_key : s.takeRnd.key = s.key := rfl
@[simp] theorem State.takeRnd_drawf : s.takeRnd.drawf = s.drawf := rfl
@[simp] theorem State.takeRnd_sndp : s.takeRnd.sndp = s.sndp := rfl
@[simp] theorem State.takeRnd_await : s.takeRnd.await = s.await := rfl
@[simp] theorem State.takeRnd_err : s.takeRnd.err = s.err := rfl
@[simp] theorem State.takeRnd_cfg : s.takeRnd.cfg = s.cfg := rfl
@[simp] theorem State.takeRnd_rndIn : s.takeRnd.rndIn = none := rfl
@[simp] theorem State.takeRnd_draws : s.takeRnd.draws = s.draws + 1 := rfl

/-! ### setAwait -/

@[simp] theorem State.setAwait_v (b : Bool) : (s.setAwait b).v = s.v := rfl
@[simp] theorem State.setAwait_i (b : Bool) : (s.setAwait b).i = s.i := rfl
@[simp] theorem State.setAwait_pc (b : Bool) : (s.setAwait b).pc = s.pc := rfl
@[simp] theorem State.setAwait_sp (b : Bool) : (s.setAwait b).sp = s.sp := rfl
@[simp] theorem State.setAwait_stack (b : Bool) : (s.setAwait b).stack = s.stack := rfl
@[simp] theorem State.setAwait_dt (b : Bool) : (s.setAwait b).dt = s.dt := rfl
@[simp] theorem State.setAwait_st (b : Bool) : (s.setAwait b).st = s.st := rfl
@[simp] theorem State.setAwait_mem (b : Bool) : (s.setAwait b).mem = s.mem := rfl
@[simp] theorem State.setAwait_fb (b : Bool) : (s.setAwait b).fb = s.fb := rfl
@[simp] theorem State.setAwait_key (b : Bool) : (s.setAwait b).key = s.key := rfl
@[simp] theorem State.setAwait_drawf (b : Bool) : (s.setAwait b).drawf = s.drawf := rfl
@[simp] theorem State.setAwait_sndp (b : Bool) : (s.setAwait b).sndp = s.sndp := rfl
@[simp] theorem State.setAwait_await (b : Bool) : (s.setAwait b).await = b := rfl
@[simp] theorem State.setAwait_err (b : Bool) : (s.setAwait b).err = s.err := rfl
@[simp] theorem State.setAwait_cfg (b : Bool) : (s.setAwait b).cfg = s.cfg := rfl
@[simp] theorem State.setAwait_rndIn (b : Bool) : (s.setAwait b).rndIn = s.rndIn := rfl
@[simp] theorem State.setAwait_draws (b : Bool) : (s.setAwait b).draws = s.draws := rfl

/-! ### tick -/

@[simp] theorem State.tick_v : s.tick.v = s.v := rfl
@[simp] theorem State.tick_i : s.tick.i = s.i := rfl
@[simp] theorem State.tick_pc : s.tick.pc = s.pc := rfl
@[simp] theorem State.tick_sp : s.tick.sp = s.sp := rfl
@[simp] theorem State.tick_stack : s.tick.stack = s.stack := rfl
@[simp] theorem State.tick_dt : s.tick.dt = countDown s.dt := rfl
@[simp] theorem State.tick_st : s.tick.st = countDown s.st := rfl
@[simp] theorem State.tick_mem : s.tick.mem = s.mem := rfl
@[simp] theorem State.tick_fb : s.tick.fb = s.fb := rfl
@[simp] theorem State.tick_key : s.tick.key = s.key := rfl
@[simp] theorem State.tick_drawf : s.tick.drawf = s.drawf := rfl
@[simp] theorem State.tick_sndp : s.tick.sndp = (s.st == 1) := rfl
@[simp] theorem State.tick_await : s.tick.await = s.await := rfl
@[simp] theorem State.tick_err : s.tick.err = s.err := rfl
@[simp] theorem State.tick_cfg : s.tick.cfg = s.cfg := rfl
@[simp] theorem State.tick_rndIn : s.tick.rndIn = s.rndIn := rfl
@[simp] theorem State.tick_draws : s.tick.draws = s.draws := rfl

/-! ### consumeRedraw -/

@[simp] theorem State.consumeRedraw_v : s.consumeRedraw.v = s.v := rfl
@[simp] theorem State.consumeRedraw_i : s.consumeRedraw.i = s.i := rfl
@[simp] theorem State.consumeRedraw_pc : s.consumeRedraw.pc = s.pc := rfl
@[simp] theorem State.consumeRedraw_sp : s.consumeRedraw.sp = s.sp := rfl
@[simp] theorem State.consumeRedraw_stack : s.consumeRedraw.stack = s.stack := rfl
@[simp] theorem State.consumeRedraw_dt : s.consumeRedraw.dt = s.dt := rfl
@[simp] theorem State.consumeRedraw_st : s.consumeRedraw.st = s.st := rfl
@[simp] theorem State.consumeRedraw_mem : s.consumeRedraw.mem = s.mem := rfl
@[simp] theorem State.consumeRedraw_fb : s.consumeRedraw.fb = s.fb := rfl
@[simp] theorem State.consumeRedraw_key : s.consumeRedraw.key = s.key := rfl
@[simp] theorem State.consumeRedraw_drawf : s.consumeRedraw.drawf = false := rfl
@[simp] theorem State.consumeRedraw_sndp : s.consumeRedraw.sndp = s.sndp := rfl
@[simp] theorem State.consumeRedraw_await : s.consumeRedraw.await = s.await := rfl
@[simp] theorem State.consumeRedraw_err : s.consumeRedraw.err = s.err := rfl
@[simp] theorem State.consumeRedraw_cfg : s.consumeRedraw.cfg = s.cfg := rfl
@[simp] theorem State.consumeRedraw_rndIn : s.consumeRedraw.rndIn = s.rndIn := rfl
@[simp] theorem State.consumeRedraw_draws : s.consumeRedraw.draws = s.draws := rfl

end Sys2Proof.Machine
end

