-- ==== Sys2Proof/Laws/Memory.lean ====
section
/-! SUPPORT. The laws of memory: a read after a write (spec/20_memory.md R41, R42), the canonical form kept by every memory
operation, and what loading and storing a run of bytes does (R44). -/

namespace Sys2Proof.Machine

theorem Memory.find_drop (m : Memory) (a a' : Nat) :
    (m.drop a).find a' = if a' = a then none else m.find a' := by
  induction m with
  | nil => simp [Memory.drop, Memory.find]
  | cons p m ih =>
    obtain ⟨k, b⟩ := p
    by_cases hk : k = a
    · subst hk
      by_cases h : a' = k
      · subst h; simpa [Memory.drop] using ih
      · simp [Memory.drop, Memory.find, ih, h, Ne.symm h]
    · by_cases h : k = a'
      · subst h; simp [Memory.drop, Memory.find, hk]
      · simp [Memory.drop, Memory.find, hk, h, ih]

theorem Memory.find_put (m : Memory) (a a' : Nat) (b : Byte) :
    (m.put a b).find a' = if a' = a then some b else m.find a' := by
  induction m with
  | nil => simp [Memory.put, Memory.find, eq_comm]
  | cons p m ih =>
    obtain ⟨k, x⟩ := p
    simp only [Memory.put]
    split
    · simp [Memory.find, eq_comm]
    · split
      · rename_i h; subst h
        by_cases h : a = a'
        · simp [Memory.find, h]
        · simp [Memory.find, h, Ne.symm h]
      · rename_i h
        by_cases h' : k = a'
        · subst h'; simp [Memory.find, Ne.symm h]
        · simp [Memory.find, h', ih]

/-- Read after write: the byte written, and every other byte as before. -/
@[simp] theorem Memory.read_write (c : Config) (m : Memory) (a a' : Nat) (b : Byte) :
    (m.write c a b).read c a' = if a' = a then b else m.read c a' := by
  unfold Memory.write Memory.read
  split
  · rename_i h
    rw [Memory.find_drop]
    split
    · rename_i h'; subst h'; simp [h]
    · rfl
  · rw [Memory.find_put]
    split <;> rfl

/-- Read after a run of writes: byte j of the run at a + j, every other byte as before. -/
theorem Memory.read_writeAll (c : Config) (m : Memory) (a : Nat) (bs : List Byte) (a' : Nat) :
    (m.writeAll c a bs).read c a' =
      if a ≤ a' ∧ a' < a + bs.length then bs.getD (a' - a) 0 else m.read c a' := by
  induction bs generalizing m a with
  | nil => simp only [Memory.writeAll, List.length_nil]; split <;> first | omega | rfl
  | cons b bs ih =>
    rw [Memory.writeAll, ih, Memory.read_write]
    by_cases h0 : a' = a
    · subst h0; simp
    · by_cases h1 : a + 1 ≤ a' ∧ a' < a + 1 + bs.length
      · have h2 : a ≤ a' ∧ a' < a + (bs.length + 1) := by omega
        obtain ⟨d, hd⟩ : ∃ d, a' - a = d + 1 := ⟨a' - a - 1, by omega⟩
        have hd' : a' - (a + 1) = d := by omega
        simp [h1, h2, hd, hd']
      · have h2 : ¬ (a ≤ a' ∧ a' < a + (bs.length + 1)) := by omega
        rw [if_neg h1, if_neg h0, if_neg (by simpa using h2)]

theorem Memory.mem_drop {m : Memory} {a : Nat} {p : Host.Cell} (h : p ∈ m.drop a) : p ∈ m := by
  induction m with
  | nil => exact h
  | cons q m ih =>
    simp only [Memory.drop] at h
    split at h
    · exact List.mem_cons_of_mem _ (ih h)
    · rcases List.mem_cons.mp h with h | h
      · exact h ▸ List.mem_cons_self
      · exact List.mem_cons_of_mem _ (ih h)

theorem Memory.mem_put {m : Memory} {a : Nat} {b : Byte} {p : Host.Cell} (h : p ∈ m.put a b) :
    p = (a, b) ∨ p ∈ m := by
  induction m with
  | nil => simpa [Memory.put] using h
  | cons q m ih =>
    simp only [Memory.put] at h
    split at h
    · simpa using h
    · split at h
      · rcases List.mem_cons.mp h with h | h
        · exact .inl h
        · exact .inr (List.mem_cons_of_mem _ h)
      · rcases List.mem_cons.mp h with h | h
        · exact .inr (h ▸ List.mem_cons_self)
        · exact (ih h).imp_right (List.mem_cons_of_mem _)

theorem Memory.sorted_drop {m : Memory} (a : Nat) (h : m.Pairwise (fun p q => p.1 < q.1)) :
    (m.drop a).Pairwise (fun p q => p.1 < q.1) := by
  induction m with
  | nil => exact h
  | cons q m ih =>
    obtain ⟨hq, hm⟩ := List.pairwise_cons.mp h
    simp only [Memory.drop]
    split
    · exact ih hm
    · exact List.pairwise_cons.mpr ⟨fun p hp => hq p (Memory.mem_drop hp), ih hm⟩

theorem Memory.sorted_put {m : Memory} (a : Nat) (b : Byte) (h : m.Pairwise (fun p q => p.1 < q.1)) :
    (m.put a b).Pairwise (fun p q => p.1 < q.1) := by
  induction m with
  | nil => simp [Memory.put]
  | cons q m ih =>
    obtain ⟨hq, hm⟩ := List.pairwise_cons.mp h
    simp only [Memory.put]
    split
    · rename_i ha
      refine List.pairwise_cons.mpr ⟨fun p hp => ?_, h⟩
      rcases List.mem_cons.mp hp with hp | hp
      · exact hp ▸ ha
      · exact Nat.lt_trans ha (hq p hp)
    · split
      · rename_i ha
        exact List.pairwise_cons.mpr ⟨fun p hp => by simpa [ha] using hq p hp, hm⟩
      · refine List.pairwise_cons.mpr ⟨fun p hp => ?_, ih hm⟩
        rcases Memory.mem_put hp with hp | hp
        · subst hp; dsimp only; omega
        · exact hq p hp

theorem Memory.drop_no_key (m : Memory) (a : Nat) : ∀ p ∈ m.drop a, p.1 ≠ a := by
  induction m with
  | nil => simp [Memory.drop]
  | cons q m ih =>
    simp only [Memory.drop]
    split
    · exact ih
    · rename_i hk
      intro p hp
      rcases List.mem_cons.mp hp with hp | hp
      · exact hp ▸ hk
      · exact ih p hp

/-- A write inside memory keeps the canonical form. -/
theorem Memory.write_keeps_wf {c : Config} {m : Memory} {a : Nat} (b : Byte) (ha : a < memSize) (h : m.wf c) :
    (m.write c a b).wf c := by
  unfold Memory.write
  split
  · exact ⟨Memory.sorted_drop a h.1, fun p hp => h.2 p (Memory.mem_drop hp)⟩
  · rename_i hb
    refine ⟨Memory.sorted_put a b h.1, fun p hp => ?_⟩
    rcases Memory.mem_put hp with rfl | hp
    · exact ⟨ha, hb⟩
    · exact h.2 p hp

/-- A run of writes inside memory keeps the canonical form. -/
theorem Memory.writeAll_keeps_wf {c : Config} {m : Memory} {a : Nat} (bs : List Byte)
    (ha : a + bs.length ≤ memSize) (h : m.wf c) : (m.writeAll c a bs).wf c := by
  induction bs generalizing m a with
  | nil => exact h
  | cons b bs ih =>
    simp only [List.length_cons] at ha
    exact ih (by omega) (Memory.write_keeps_wf b (by omega) h)

theorem inMemory_iff (a n : Nat) : inMemory a n = true ↔ n = 0 ∨ a + n ≤ memSize := by
  simp [inMemory]

/-- Everything `loadBytes` can do: the bytes, when the whole range is in memory. -/
theorem State.loadBytes_eq (s : State) (a n : Nat) :
    s.loadBytes a n =
      if n = 0 ∨ a + n ≤ memSize then some ((List.range n).map fun j => s.byte (a + j)) else none := by
  simp [State.loadBytes, inMemory]

/-- Everything `storeBytes` can do: the run of writes, when the whole range is in memory. -/
theorem State.storeBytes_eq (s : State) (a : Nat) (bs : List Byte) :
    s.storeBytes a bs =
      if bs.length = 0 ∨ a + bs.length ≤ memSize then some { s with mem := s.mem.writeAll s.cfg a bs } else none := by
  simp [State.storeBytes, inMemory]

/-- A store that answers keeps the canonical form. -/
theorem State.storeBytes_keeps_wf {s t : State} {a : Nat} {bs : List Byte} (h : s.storeBytes a bs = some t)
    (hw : s.mem.wf s.cfg) : t.mem.wf t.cfg := by
  rw [State.storeBytes_eq] at h
  split at h
  · rename_i hr
    cases h
    rcases hr with hr | hr
    · cases bs with
      | nil => exact hw
      | cons b bs => simp at hr
    · exact Memory.writeAll_keeps_wf bs hr hw
  · cases h

/-- LoadByte keeps the canonical form. -/
theorem State.loadByte_keeps_wf {s : State} (a : Addr12) (b : Byte) (hw : s.mem.wf s.cfg) :
    (s.loadByte a b).mem.wf (s.loadByte a b).cfg := by
  unfold State.loadByte
  split
  · exact Memory.write_keeps_wf b a.isLt hw
  · exact hw

/-- Load keeps the canonical form. -/
theorem State.load_keeps_wf {s t : State} {bs : List Byte} (h : s.load bs = .ok t) (hw : s.mem.wf s.cfg) :
    t.mem.wf t.cfg := by
  unfold State.load at h
  split at h
  · rename_i hl
    cases h
    refine Memory.writeAll_keeps_wf bs ?_ hw
    simp only [progMax] at hl
    simp only [progBase, memSize]
    omega
  · cases h

/-- Placing an instruction keeps the canonical form. -/
theorem State.withFetchWord_keeps_wf {s : State} (nbits w : Nat) (hw : s.mem.wf s.cfg) :
    (s.withFetchWord nbits w).mem.wf (s.withFetchWord nbits w).cfg := by
  unfold State.withFetchWord
  cases h : s.storeBytes s.pc.toNat (bytesOfWord (tableWord nbits w)) with
  | none => exact hw
  | some t => exact State.storeBytes_keeps_wf h hw

/-- Reset memory has the canonical form: nothing is listed. -/
theorem State.resetWith_wf (c : Config) : (State.resetWith c).mem.wf (State.resetWith c).cfg :=
  ⟨.nil, fun _ h => by cases h⟩

/-- A byte of reset memory is its reset contents. -/
theorem State.resetWith_byte (c : Config) (a : Nat) : (State.resetWith c).byte a = resetByte c a := rfl

end Sys2Proof.Machine
end

