-- ==== Sys2Proof/Laws/Ops.lean ====
section
/-! SUPPORT. What each shared operation does, said once: register reads after register writes, the stack, the block load, the
pressed key, one pixel, and the outcome of a Step. -/

namespace Sys2Proof.Machine

/-! ### Registers -/

/-- A register read sees only `v`. -/
theorem State.reg_congr {s t : State} (h : t.v = s.v) (r : Nibble) : t.reg r = s.reg r := by
  simp only [State.reg, h]

@[simp] theorem State.reg_setReg (s : State) (x r : Nibble) (b : Byte) :
    (s.setReg x b).reg r = if r = x then b else s.reg r := by
  unfold State.reg State.setReg
  by_cases h : r = x
  · subst h; simp
  · have : x.toNat ≠ r.toNat := fun e => h (BitVec.eq_of_toNat_eq e.symm)
    simp [this, h]

/-- The VF-last rule (spec/42_alu.md R101): the flag wins when X = 15. -/
@[simp] theorem State.reg_setRegFlag (s : State) (x r : Nibble) (b : Byte) (f : Bool) :
    (s.setRegFlag x b f).reg r = if r = regF then flagByte f else if r = x then b else s.reg r := by
  simp [State.setRegFlag]

@[simp] theorem State.reg_setIndex (s : State) (w : Word) (r : Nibble) : (s.setIndex w).reg r = s.reg r := rfl
@[simp] theorem State.reg_setPc (s : State) (w : Word) (r : Nibble) : (s.setPc w).reg r = s.reg r := rfl
@[simp] theorem State.reg_advance (s : State) (n : Nat) (r : Nibble) : (s.advance n).reg r = s.reg r := rfl
@[simp] theorem State.reg_raise (s : State) (e : ErrCode) (r : Nibble) : (s.raise e).reg r = s.reg r := rfl
@[simp] theorem State.reg_setDT (s : State) (b : Byte) (r : Nibble) : (s.setDT b).reg r = s.reg r := rfl
@[simp] theorem State.reg_setST (s : State) (b : Byte) (r : Nibble) : (s.setST b).reg r = s.reg r := rfl
@[simp] theorem State.reg_setDisplay (s : State) (fb : Framebuffer) (r : Nibble) :
    (s.setDisplay fb).reg r = s.reg r := rfl
@[simp] theorem State.reg_takeRnd (s : State) (r : Nibble) : s.takeRnd.reg r = s.reg r := rfl
@[simp] theorem State.reg_setAwait (s : State) (b : Bool) (r : Nibble) : (s.setAwait b).reg r = s.reg r := rfl

/-- The block load (spec/43_index_memory.md R125): byte k of the list into V[j + k], every other register as before. -/
theorem State.loadRegs_reg (s : State) (j : Nat) (bs : List Byte) (r : Nibble) (h : j + bs.length ≤ 16) :
    (s.loadRegs j bs).reg r =
      if j ≤ r.toNat ∧ r.toNat < j + bs.length then bs.getD (r.toNat - j) 0 else s.reg r := by
  induction bs generalizing s j with
  | nil => simp only [State.loadRegs, List.length_nil]; split <;> first | omega | rfl
  | cons b bs ih =>
    simp only [List.length_cons] at h
    rw [State.loadRegs, ih _ _ (by omega), State.reg_setReg]
    by_cases h0 : r.toNat = j
    · have : r = BitVec.ofNat 4 j := by
        apply BitVec.eq_of_toNat_eq
        rw [BitVec.toNat_ofNat, h0, Nat.mod_eq_of_lt (by omega)]
      rw [if_neg (by omega), if_pos this, if_pos (by simp only [List.length_cons]; omega)]
      simp [h0]
    · have hne : r ≠ BitVec.ofNat 4 j := by
        intro e
        apply h0
        rw [e, BitVec.toNat_ofNat, Nat.mod_eq_of_lt (by omega)]
      by_cases h1 : j + 1 ≤ r.toNat ∧ r.toNat < j + 1 + bs.length
      · obtain ⟨d, hd⟩ : ∃ d, r.toNat - j = d + 1 := ⟨r.toNat - j - 1, by omega⟩
        rw [if_pos h1, if_pos (by simp only [List.length_cons]; omega), hd,
          show r.toNat - (j + 1) = d by omega]
        simp
      · rw [if_neg h1, if_neg hne, if_neg (by simp only [List.length_cons]; omega)]

/-- The block load changes nothing but the registers. -/
theorem State.loadRegs_eq (s : State) (j : Nat) (bs : List Byte) :
    s.loadRegs j bs = { s with v := (s.loadRegs j bs).v } := by
  induction bs generalizing s j with
  | nil => rfl
  | cons b bs ih => rw [State.loadRegs, ih]; rfl

/-! ### Call stack -/

/-- Everything `push` can do. -/
theorem State.push_cases (s : State) (w : Word) :
    (s.sp.val = 16 ∧ s.push w = none) ∨
    (∃ t, s.push w = some t ∧ s.sp.val < 16 ∧ t.sp.val = s.sp.val + 1 ∧
      (∀ j, t.stackAt j = if j = s.sp.val then w else s.stackAt j) ∧
      t = { s with sp := t.sp, stack := t.stack }) := by
  unfold State.push
  by_cases h : s.sp.val < 16
  · right
    refine ⟨_, dif_pos h, h, rfl, fun j => ?_, rfl⟩
    simp only [State.stackAt]
    by_cases hj : j < 16
    · simp [hj, Vector.getElem_set, eq_comm]
    · have : j ≠ s.sp.val := by omega
      simp [hj, this]
  · exact .inl ⟨by omega, dif_neg h⟩

/-- Everything `pop` can do. -/
theorem State.pop_cases (s : State) :
    (s.sp.val = 0 ∧ s.pop = none) ∨
    (∃ t, s.pop = some (s.stackAt (s.sp.val - 1), t) ∧ 0 < s.sp.val ∧ t.sp.val = s.sp.val - 1 ∧
      t = { s with sp := t.sp }) := by
  unfold State.pop
  by_cases h : 0 < s.sp.val
  · right
    refine ⟨{ s with sp := ⟨s.sp.val - 1, by omega⟩ }, ?_, h, rfl, rfl⟩
    rw [dif_pos h]
    have : s.sp.val - 1 < 16 := by omega
    simp [State.stackAt, this]
  · exact .inl ⟨by omega, dif_neg h⟩

/-! ### Input latch -/

/-- No pressed key is found exactly when every key is released. -/
theorem State.firstKey_eq_none (s : State) : s.firstKey = none ↔ ∀ k, s.keyDown k = false := by
  unfold State.firstKey
  rw [List.find?_eq_none]
  constructor
  · intro h k
    have := h k (List.mem_map.mpr ⟨k.toNat, List.mem_range.mpr k.isLt, by simp⟩)
    simpa using this
  · intro h k _
    simp [h k]

/-- The key found is pressed, and no smaller one is. -/
theorem State.firstKey_eq_some (s : State) (k : Nibble) :
    s.firstKey = some k ↔ s.keyDown k = true ∧ ∀ j : Nibble, j.toNat < k.toNat → s.keyDown j = false := by
  unfold State.firstKey
  rw [List.find?_eq_some_iff_getElem]
  constructor
  · rintro ⟨hk, n, hn, hnk, hlt⟩
    simp only [List.length_map, List.length_range] at hn
    simp only [List.getElem_map, List.getElem_range] at hnk hlt
    refine ⟨hk, fun j hj => ?_⟩
    have hn' : k.toNat = n := by rw [← hnk, BitVec.toNat_ofNat, Nat.mod_eq_of_lt (by omega)]
    have := hlt j.toNat (by omega)
    simpa using this
  · rintro ⟨hk, hlt⟩
    refine ⟨hk, k.toNat, by simpa using k.isLt, by simp, fun j hj => ?_⟩
    simp only [List.getElem_map, List.getElem_range]
    have hj' : j < 16 := Nat.lt_trans hj k.isLt
    rw [hlt _ (by rw [BitVec.toNat_ofNat, Nat.mod_eq_of_lt (by omega)]; exact hj)]
    rfl

/-! ### Framebuffer -/

/-- One flipped pixel, every other as before. -/
@[simp] theorem Framebuffer.pixel_flip (fb : Framebuffer) (x x' : Fin 64) (y y' : Fin 32) :
    (fb.flip x y).pixel x' y' = if x' = x ∧ y' = y then !fb.pixel x y else fb.pixel x' y' := by
  unfold Framebuffer.flip Framebuffer.pixel
  by_cases hy : y' = y
  · subst hy
    by_cases hx : x' = x
    · subst hx; simp
    · have : x.val ≠ x'.val := fun e => hx (Fin.ext e.symm)
      simp [this, hx]
  · have : y.val ≠ y'.val := fun e => hy (Fin.ext e.symm)
    simp [this, hy]

@[simp] theorem Framebuffer.pixel_blank (x : Fin 64) (y : Fin 32) : Framebuffer.blank.pixel x y = false := by
  simp [Framebuffer.blank, Framebuffer.pixel]

/-- One pixel of a draw: XOR with the source bit, where it lands. -/
theorem drawPixel_pixel (bit : Bool) (x x' : Fin 64) (y y' : Fin 32) (d : Canvas) :
    (drawPixel bit x y d).1.pixel x' y' = (d.1.pixel x' y' ^^ (bit && decide (x' = x ∧ y' = y))) := by
  unfold drawPixel
  cases bit
  · simp
  · by_cases h : x' = x ∧ y' = y
    · obtain ⟨rfl, rfl⟩ := h; simp
    · rw [if_pos rfl]; simp [h]

/-- One pixel of a draw: the collision. -/
theorem drawPixel_hit (bit : Bool) (x : Fin 64) (y : Fin 32) (d : Canvas) :
    (drawPixel bit x y d).2 = (d.2 || (bit && d.1.pixel x y)) := by
  cases bit <;> simp [drawPixel]

/-! ### The Step -/

/-- Everything a Step that answers can have done (spec/40_step_cycle.md R80). -/
theorem cycle_cases {s t : State} (h : cycle s = .next t) :
    (s.err ≠ .none ∧ t = s) ∨
    (s.err = .none ∧ 0xFFE < s.pc.toNat ∧ t = s.raise .addressFault) ∨
    (s.err = .none ∧ s.pc.toNat ≤ 0xFFE ∧ decodeWord s.fetchWord = none ∧ t = s.skipUnknown) ∨
    (s.err = .none ∧ s.pc.toNat ≤ 0xFFE ∧ ∃ i u, decodeWord s.fetchWord = some i ∧ exec i s = .next u ∧
      t = u.setAwait (awaitAfter i s)) := by
  unfold cycle at h
  split at h
  · rename_i hh
    cases h
    exact .inl ⟨by simpa [State.halted] using hh, rfl⟩
  · rename_i hh
    have he : s.err = .none := by simpa [State.halted] using hh
    split at h
    · rename_i hf
      have hp : s.pc.toNat ≤ 0xFFE := by simpa [State.canFetch] using hf
      cases hd : decodeWord s.fetchWord with
      | none => rw [hd] at h; cases h; exact .inr (.inr (.inl ⟨he, hp, rfl, rfl⟩))
      | some i =>
        rw [hd] at h
        simp only at h
        cases hx : exec i s with
        | next u => rw [hx] at h; cases h; exact .inr (.inr (.inr ⟨he, hp, i, u, rfl, hx, rfl⟩))
        | fault r => cases r
        | refused r => rw [hx] at h; cases h
    · rename_i hf
      cases h
      exact .inr (.inl ⟨he, by simpa [State.canFetch] using hf, rfl⟩)

end Sys2Proof.Machine
end

