-- ==== Sys2Proof/Laws/PerInstr.lean ====
section
/-! SUPPORT. One statement per instruction: its encoding matches its own row of the opcode table (spec/30_encoding.md R65). -/

namespace Sys2Proof.Laws

/-! ### A masked encoding, format by format -/

theorem covers_encNNN (op : Nibble) (nnn : Addr12) : encNNN op nnn &&& 0xF000#16 = encNNN op 0 := by
  apply BitVec.eq_of_getLsbD_eq
  intro k hk
  simp only [BitVec.getLsbD_and, getLsbD_encNNN]
  interval_cases k <;> simp

theorem covers_encXKK (op x : Nibble) (kk : Byte) : encXKK op x kk &&& 0xF000#16 = encXKK op 0 0 := by
  apply BitVec.eq_of_getLsbD_eq
  intro k hk
  simp only [BitVec.getLsbD_and, getLsbD_encXKK]
  interval_cases k <;> simp

theorem covers_encXYS (op x y n : Nibble) : encXYN op x y n &&& 0xF00F#16 = encXYN op 0 0 n := by
  apply BitVec.eq_of_getLsbD_eq
  intro k hk
  simp only [BitVec.getLsbD_and, getLsbD_encXYN]
  interval_cases k <;> simp

theorem covers_encXYN (op x y n : Nibble) : encXYN op x y n &&& 0xF000#16 = encXYN op 0 0 0 := by
  apply BitVec.eq_of_getLsbD_eq
  intro k hk
  simp only [BitVec.getLsbD_and, getLsbD_encXYN]
  interval_cases k <;> simp

theorem covers_encXSS (op x : Nibble) (kk : Byte) : encXKK op x kk &&& 0xF0FF#16 = encXKK op 0 kk := by
  apply BitVec.eq_of_getLsbD_eq
  intro k hk
  simp only [BitVec.getLsbD_and, getLsbD_encXKK]
  interval_cases k <;> simp

/-- A row matches a word whose masked bits are the row's code. -/
theorem covers_of_masked {r : OpcodeRow} {w : Word} (h : w &&& r.mask = r.code) : r.covers w = true := by
  simp [OpcodeRow.covers, h]

/-! ### Instruction by instruction -/

/-- The instruction's word matches the row of its name. -/
def TableRow.Statement (i : Instr) : Prop :=
  ∃ r ∈ opcodeTable, r.mnemonic = i.mnemonic ∧ r.covers (encode i) = true

theorem TableRow.cls : TableRow.Statement .cls :=
  ⟨⟨"CLS", 0xFFFF, 0x00E0⟩, by decide, rfl, covers_of_masked rfl⟩

theorem TableRow.ret : TableRow.Statement .ret :=
  ⟨⟨"RET", 0xFFFF, 0x00EE⟩, by decide, rfl, covers_of_masked rfl⟩

theorem TableRow.jp (nnn : Addr12) : TableRow.Statement (.jp nnn) :=
  ⟨⟨"JP", 0xF000, 0x1000⟩, by decide, rfl, covers_of_masked ((covers_encNNN _ nnn).trans (by decide))⟩

theorem TableRow.call (nnn : Addr12) : TableRow.Statement (.call nnn) :=
  ⟨⟨"CALL", 0xF000, 0x2000⟩, by decide, rfl, covers_of_masked ((covers_encNNN _ nnn).trans (by decide))⟩

theorem TableRow.seI (x : Nibble) (kk : Byte) : TableRow.Statement (.seI x kk) :=
  ⟨⟨"SE_I", 0xF000, 0x3000⟩, by decide, rfl, covers_of_masked ((covers_encXKK _ x kk).trans (by decide))⟩

theorem TableRow.sneI (x : Nibble) (kk : Byte) : TableRow.Statement (.sneI x kk) :=
  ⟨⟨"SNE_I", 0xF000, 0x4000⟩, by decide, rfl, covers_of_masked ((covers_encXKK _ x kk).trans (by decide))⟩

theorem TableRow.seR (x y : Nibble) : TableRow.Statement (.seR x y) :=
  ⟨⟨"SE_R", 0xF00F, 0x5000⟩, by decide, rfl, covers_of_masked ((covers_encXYS _ x y _).trans (by decide))⟩

theorem TableRow.ldI (x : Nibble) (kk : Byte) : TableRow.Statement (.ldI x kk) :=
  ⟨⟨"LD_I", 0xF000, 0x6000⟩, by decide, rfl, covers_of_masked ((covers_encXKK _ x kk).trans (by decide))⟩

theorem TableRow.addI (x : Nibble) (kk : Byte) : TableRow.Statement (.addI x kk) :=
  ⟨⟨"ADD_I", 0xF000, 0x7000⟩, by decide, rfl, covers_of_masked ((covers_encXKK _ x kk).trans (by decide))⟩

theorem TableRow.ldR (x y : Nibble) : TableRow.Statement (.ldR x y) :=
  ⟨⟨"LD_R", 0xF00F, 0x8000⟩, by decide, rfl, covers_of_masked ((covers_encXYS _ x y _).trans (by decide))⟩

theorem TableRow.orR (x y : Nibble) : TableRow.Statement (.orR x y) :=
  ⟨⟨"OR", 0xF00F, 0x8001⟩, by decide, rfl, covers_of_masked ((covers_encXYS _ x y _).trans (by decide))⟩

theorem TableRow.andR (x y : Nibble) : TableRow.Statement (.andR x y) :=
  ⟨⟨"AND", 0xF00F, 0x8002⟩, by decide, rfl, covers_of_masked ((covers_encXYS _ x y _).trans (by decide))⟩

theorem TableRow.xorR (x y : Nibble) : TableRow.Statement (.xorR x y) :=
  ⟨⟨"XOR", 0xF00F, 0x8003⟩, by decide, rfl, covers_of_masked ((covers_encXYS _ x y _).trans (by decide))⟩

theorem TableRow.addR (x y : Nibble) : TableRow.Statement (.addR x y) :=
  ⟨⟨"ADD_R", 0xF00F, 0x8004⟩, by decide, rfl, covers_of_masked ((covers_encXYS _ x y _).trans (by decide))⟩

theorem TableRow.sub (x y : Nibble) : TableRow.Statement (.sub x y) :=
  ⟨⟨"SUB", 0xF00F, 0x8005⟩, by decide, rfl, covers_of_masked ((covers_encXYS _ x y _).trans (by decide))⟩

theorem TableRow.shr (x y : Nibble) : TableRow.Statement (.shr x y) :=
  ⟨⟨"SHR", 0xF00F, 0x8006⟩, by decide, rfl, covers_of_masked ((covers_encXYS _ x y _).trans (by decide))⟩

theorem TableRow.subn (x y : Nibble) : TableRow.Statement (.subn x y) :=
  ⟨⟨"SUBN", 0xF00F, 0x8007⟩, by decide, rfl, covers_of_masked ((covers_encXYS _ x y _).trans (by decide))⟩

theorem TableRow.shl (x y : Nibble) : TableRow.Statement (.shl x y) :=
  ⟨⟨"SHL", 0xF00F, 0x800E⟩, by decide, rfl, covers_of_masked ((covers_encXYS _ x y _).trans (by decide))⟩

theorem TableRow.sneR (x y : Nibble) : TableRow.Statement (.sneR x y) :=
  ⟨⟨"SNE_R", 0xF00F, 0x9000⟩, by decide, rfl, covers_of_masked ((covers_encXYS _ x y _).trans (by decide))⟩

theorem TableRow.ldIndex (nnn : Addr12) : TableRow.Statement (.ldIndex nnn) :=
  ⟨⟨"LD_INDEX", 0xF000, 0xA000⟩, by decide, rfl, covers_of_masked ((covers_encNNN _ nnn).trans (by decide))⟩

theorem TableRow.jpV0 (nnn : Addr12) : TableRow.Statement (.jpV0 nnn) :=
  ⟨⟨"JP_V0", 0xF000, 0xB000⟩, by decide, rfl, covers_of_masked ((covers_encNNN _ nnn).trans (by decide))⟩

theorem TableRow.rnd (x : Nibble) (kk : Byte) : TableRow.Statement (.rnd x kk) :=
  ⟨⟨"RND", 0xF000, 0xC000⟩, by decide, rfl, covers_of_masked ((covers_encXKK _ x kk).trans (by decide))⟩

theorem TableRow.drw (x y n : Nibble) : TableRow.Statement (.drw x y n) :=
  ⟨⟨"DRW", 0xF000, 0xD000⟩, by decide, rfl, covers_of_masked ((covers_encXYN _ x y n).trans (by decide))⟩

theorem TableRow.skp (x : Nibble) : TableRow.Statement (.skp x) :=
  ⟨⟨"SKP", 0xF0FF, 0xE09E⟩, by decide, rfl, covers_of_masked ((covers_encXSS _ x _).trans (by decide))⟩

theorem TableRow.sknp (x : Nibble) : TableRow.Statement (.sknp x) :=
  ⟨⟨"SKNP", 0xF0FF, 0xE0A1⟩, by decide, rfl, covers_of_masked ((covers_encXSS _ x _).trans (by decide))⟩

theorem TableRow.ldGetDT (x : Nibble) : TableRow.Statement (.ldGetDT x) :=
  ⟨⟨"LD_GETDT", 0xF0FF, 0xF007⟩, by decide, rfl, covers_of_masked ((covers_encXSS _ x _).trans (by decide))⟩

theorem TableRow.ldKey (x : Nibble) : TableRow.Statement (.ldKey x) :=
  ⟨⟨"LD_KEY", 0xF0FF, 0xF00A⟩, by decide, rfl, covers_of_masked ((covers_encXSS _ x _).trans (by decide))⟩

theorem TableRow.ldSetDT (x : Nibble) : TableRow.Statement (.ldSetDT x) :=
  ⟨⟨"LD_SETDT", 0xF0FF, 0xF015⟩, by decide, rfl, covers_of_masked ((covers_encXSS _ x _).trans (by decide))⟩

theorem TableRow.ldSetST (x : Nibble) : TableRow.Statement (.ldSetST x) :=
  ⟨⟨"LD_SETST", 0xF0FF, 0xF018⟩, by decide, rfl, covers_of_masked ((covers_encXSS _ x _).trans (by decide))⟩

theorem TableRow.addIndex (x : Nibble) : TableRow.Statement (.addIndex x) :=
  ⟨⟨"ADD_INDEX", 0xF0FF, 0xF01E⟩, by decide, rfl, covers_of_masked ((covers_encXSS _ x _).trans (by decide))⟩

theorem TableRow.ldFont (x : Nibble) : TableRow.Statement (.ldFont x) :=
  ⟨⟨"LD_FONT", 0xF0FF, 0xF029⟩, by decide, rfl, covers_of_masked ((covers_encXSS _ x _).trans (by decide))⟩

theorem TableRow.ldBcd (x : Nibble) : TableRow.Statement (.ldBcd x) :=
  ⟨⟨"LD_BCD", 0xF0FF, 0xF033⟩, by decide, rfl, covers_of_masked ((covers_encXSS _ x _).trans (by decide))⟩

theorem TableRow.ldStore (x : Nibble) : TableRow.Statement (.ldStore x) :=
  ⟨⟨"LD_STORE", 0xF0FF, 0xF055⟩, by decide, rfl, covers_of_masked ((covers_encXSS _ x _).trans (by decide))⟩

theorem TableRow.ldLoad (x : Nibble) : TableRow.Statement (.ldLoad x) :=
  ⟨⟨"LD_LOAD", 0xF0FF, 0xF065⟩, by decide, rfl, covers_of_masked ((covers_encXSS _ x _).trans (by decide))⟩

end Sys2Proof.Laws
end

