-- ==== Sys2Proof/Tests/Slice0.lean ====
section
/-! SUPPORT. The model's own tests: the operand check refuses ill-formed operands; every row of the opcode table decodes a word
written from its pattern; single steps from the vectors of spec/95_test_vectors.md (named by their ids there); and for every
statement with hypotheses a state and operands that meet them. -/

namespace Sys2Proof.Tests

open Sys2Proof Sys2Proof.Machine

-- One theorem after another: a hundred kernel evaluations at once exhaust the threads of a small machine.
set_option Elab.async false

/-! ### The operand check (spec/30_encoding.md R62, R63) -/

theorem test_wf_accepts_largest_operands :
    (Format.accepts .fixed {} && Format.accepts .nnn { nnn := 4095 } && Format.accepts .xkk { x := 15, kk := 255 } &&
      Format.accepts .xys { x := 15, y := 15 } && Format.accepts .xyn { x := 15, y := 15, n := 15 } &&
      Format.accepts .xss { x := 15 }) = true := by decide

theorem test_wf_refuses_address_too_large : Format.accepts .nnn { nnn := 4096 } = false := by decide
theorem test_wf_refuses_register_too_large :
    (Format.accepts .xkk { x := 16 } || Format.accepts .xys { x := 16 } || Format.accepts .xyn { x := 16 } ||
      Format.accepts .xss { x := 16 }) = false := by decide
theorem test_wf_refuses_byte_too_large : Format.accepts .xkk { kk := 256 } = false := by decide
theorem test_wf_refuses_second_register_too_large :
    (Format.accepts .xys { y := 16 } || Format.accepts .xyn { y := 16 }) = false := by decide
theorem test_wf_refuses_row_count_too_large : Format.accepts .xyn { n := 16 } = false := by decide
theorem test_wf_refuses_absent_field :
    (Format.accepts .fixed { x := 1 } || Format.accepts .nnn { x := 1 } || Format.accepts .xkk { y := 1 } ||
      Format.accepts .xys { n := 1 } || Format.accepts .xyn { kk := 1 } || Format.accepts .xss { nnn := 1 }) = false := by
  decide

/-! ### Decoding: one word per constructor, written from the pattern of its row (spec/30_encoding.md R65) -/

theorem test_decode_class0 :
    decodeWord 0x00E0 = some .cls ∧ decodeWord 0x00EE = some .ret ∧ decodeWord 0x00E1 = none ∧
      decodeWord 0x0FFF = none := by decide
theorem test_decode_jumps :
    decodeWord 0x1ABC = some (.jp 0xABC) ∧ decodeWord 0x2F01 = some (.call 0xF01) ∧
      decodeWord 0xB2FE = some (.jpV0 0x2FE) := by decide
theorem test_decode_skips :
    decodeWord 0x3A05 = some (.seI 0xA 0x05) ∧ decodeWord 0x4B7F = some (.sneI 0xB 0x7F) ∧
      decodeWord 0x5120 = some (.seR 1 2) ∧ decodeWord 0x9AB0 = some (.sneR 0xA 0xB) ∧
      decodeWord 0x5121 = none ∧ decodeWord 0x912F = none := by decide
theorem test_decode_immediates :
    decodeWord 0x6FAB = some (.ldI 0xF 0xAB) ∧ decodeWord 0x7C01 = some (.addI 0xC 0x01) ∧
      decodeWord 0xC30F = some (.rnd 3 0x0F) ∧ decodeWord 0xA20C = some (.ldIndex 0x20C) := by decide
theorem test_decode_class8 :
    decodeWord 0x8AB0 = some (.ldR 0xA 0xB) ∧ decodeWord 0x8121 = some (.orR 1 2) ∧
      decodeWord 0x8342 = some (.andR 3 4) ∧ decodeWord 0x8563 = some (.xorR 5 6) ∧
      decodeWord 0x8474 = some (.addR 4 7) ∧ decodeWord 0x8F25 = some (.sub 0xF 2) := by decide
theorem test_decode_class8_high :
    decodeWord 0x8126 = some (.shr 1 2) ∧ decodeWord 0x8127 = some (.subn 1 2) ∧
      decodeWord 0x812E = some (.shl 1 2) ∧ decodeWord 0x8128 = none ∧ decodeWord 0x812F = none := by decide
theorem test_decode_draw : decodeWord 0xD125 = some (.drw 1 2 5) ∧ decodeWord 0xDEF0 = some (.drw 0xE 0xF 0) := by decide
theorem test_decode_classE :
    decodeWord 0xE19E = some (.skp 1) ∧ decodeWord 0xE2A1 = some (.sknp 2) ∧ decodeWord 0xE19F = none ∧
      decodeWord 0xE1A0 = none := by decide
theorem test_decode_classF_timers :
    decodeWord 0xF107 = some (.ldGetDT 1) ∧ decodeWord 0xF20A = some (.ldKey 2) ∧ decodeWord 0xF315 = some (.ldSetDT 3) ∧
      decodeWord 0xF418 = some (.ldSetST 4) := by decide
theorem test_decode_classF_memory :
    decodeWord 0xF51E = some (.addIndex 5) ∧ decodeWord 0xF629 = some (.ldFont 6) ∧ decodeWord 0xF733 = some (.ldBcd 7) ∧
      decodeWord 0xF855 = some (.ldStore 8) ∧ decodeWord 0xF965 = some (.ldLoad 9) ∧ decodeWord 0xF100 = none ∧
      decodeWord 0xF175 = none := by decide
/-- The first byte in memory is the high byte (spec/20_memory.md R47); two bytes are an instruction (R60). -/
theorem test_decode_bytes :
    decode [0x12, 0x34, 0x56] = .ok (.jp 0x234, [0x56]) ∧ decode [0x80, 0x0F] = .error (.unknownOpcode 0x800F) ∧
      decode [0x12] = .error .truncated ∧ decodeTableWord 16 0xD125 = some (.drw 1 2 5) := by decide
/-- Section 2 of spec/30_encoding.md, column "syntax", with R70's number forms. -/
theorem test_assembler_text :
    (Instr.asm (.drw 1 2 5) = "DRW V1, V2, 0x5" ∧ Instr.asm (.ldStore 3) = "LD [I], V3") ∧
      Instr.asm (.seI 0xA 0x05) = "SE VA, 0x05" := by decide +kernel

/-! ### One step -/

/-- The state with an instruction word at pc. -/
def start (w : Nat) (s : State := State.reset) : State := s.withFetchWord 16 w

/-- Registers set one after another, from the reset state. -/
def regs (l : List (Nibble × Byte)) (s : State := State.reset) : State := l.foldl (fun s p => s.setReg p.1 p.2) s

/-- Memory bytes from an address on, index register at it. -/
def bytesAt (a : Word) (bs : List Byte) (s : State := State.reset) : State :=
  { s with i := a, mem := s.mem.writeAll s.cfg a.toNat bs }

/-- Pixels set, from a given state. -/
def lit (l : List (Fin 64 × Fin 32)) (s : State := State.reset) : State :=
  { s with fb := l.foldl (fun fb p => fb.flip p.1 p.2) s.fb }

/-- These pixels are set, and as many in all. -/
def showsOnly (l : List (Fin 64 × Fin 32)) (t : State) : Bool :=
  (t.fb.toList.map fun row => row.toList.count true).sum == l.length && l.all fun p => t.pixel p.1 p.2

/-- Does the Step answer a next state with this property? -/
def gives (s : State) (p : State → Bool) : Bool :=
  match step s with
  | .next t => p t
  | .fault _ => false
  | .refused _ => false

/-- Does the command answer a next state and a response with this property? -/
def answers (c : Command) (s : State) (p : State → Response → Bool) : Bool :=
  match perform c s with
  | .next (t, r) => p t r
  | .fault _ => false
  | .refused _ => false

/-- C1. -/
theorem test_ret_pops :
    gives (start 0x00EE { State.reset with pc := 0x400, sp := 2, stack := (State.reset.stack.set 0 0x204).set 1 0x30A })
      (fun t => t.pc == 0x30C && t.sp == 1 && t.stackAt 1 == 0x30A && t.err == .none) = true := by decide +kernel
/-- C2. -/
theorem test_ret_underflows :
    gives (start 0x00EE) (fun t => t.err.code == 2 && t.pc == 0x200 && t.sp == 0) = true := by decide +kernel
/-- C4. -/
theorem test_jp : gives (start 0x1ABC) (fun t => t.pc == 0xABC) = true := by decide +kernel
/-- C7. -/
theorem test_call_pushes :
    gives (start 0x2ABC { State.reset with pc := 0x345, sp := 15 })
      (fun t => t.stackAt 15 == 0x345 && t.sp == 16 && t.pc == 0xABC && t.err == .none) = true := by decide +kernel
/-- C8. -/
theorem test_call_overflows :
    gives (start 0x2ABC { State.reset with sp := 16 })
      (fun t => t.err.code == 1 && t.pc == 0x200 && t.sp == 16 && t.stackAt 15 == 0) = true := by decide +kernel
/-- C10. -/
theorem test_jpV0_not_reduced :
    gives (start 0xBFFF (regs [(0, 0xFF)])) (fun t => t.pc == 0x10FE && t.err == .none) = true := by decide +kernel
/-- S5a, S5b. -/
theorem test_seI :
    (gives (start 0x3A05 (regs [(0xA, 5)])) (fun t => t.pc == 0x204) &&
      gives (start 0x3A05 (regs [(0xA, 6)])) (fun t => t.pc == 0x202)) = true := by decide +kernel
/-- C13, C14. -/
theorem test_sneI :
    (gives (start 0x4000) (fun t => t.pc == 0x202) && gives (start 0x40FF) (fun t => t.pc == 0x204)) = true := by
  decide +kernel
/-- C15, C16. -/
theorem test_seR :
    (gives (start 0x5AA0 (regs [(0xA, 0x77)])) (fun t => t.pc == 0x204) &&
      gives (start 0x5AB0 (regs [(0xA, 1), (0xB, 2)])) (fun t => t.pc == 0x202)) = true := by decide +kernel
/-- C17, C18. -/
theorem test_sneR :
    (gives (start 0x9AA0 (regs [(0xA, 0x77)])) (fun t => t.pc == 0x202) &&
      gives (start 0x9AB0 (regs [(0xA, 1), (0xB, 2)])) (fun t => t.pc == 0x204)) = true := by decide +kernel
/-- A1. -/
theorem test_ldI : gives (start 0x6FAB) (fun t => t.reg 0xF == 0xAB && t.pc == 0x202) = true := by decide +kernel
/-- A2. -/
theorem test_addI_no_carry_flag :
    gives (start 0x7001 (regs [(0, 0xFF), (0xF, 7)])) (fun t => t.reg 0 == 0 && t.reg 0xF == 7 && t.pc == 0x202) = true := by
  decide +kernel
/-- A4. -/
theorem test_ldR :
    gives (start 0x8AB0 (regs [(0xA, 1), (0xB, 0x99)])) (fun t => t.reg 0xA == 0x99 && t.reg 0xB == 0x99) = true := by
  decide +kernel
/-- A6. -/
theorem test_or_keeps_vf :
    gives (start 0x8121 (regs [(1, 0x55), (2, 0xAA), (0xF, 9)])) (fun t => t.reg 1 == 0xFF && t.reg 0xF == 9) = true := by
  decide +kernel
/-- A7. -/
theorem test_and_keeps_vf :
    gives (start 0x8122 (regs [(1, 0x55), (2, 0xAA), (0xF, 9)])) (fun t => t.reg 1 == 0 && t.reg 0xF == 9) = true := by
  decide +kernel
/-- A8. -/
theorem test_xor_keeps_vf :
    gives (start 0x8113 (regs [(1, 0x55), (0xF, 9)])) (fun t => t.reg 1 == 0 && t.reg 0xF == 9) = true := by
  decide +kernel
/-- S1a, A9. -/
theorem test_addR_carry :
    (gives (start 0x8124 (regs [(1, 0xFF), (2, 1)])) (fun t => t.reg 1 == 0 && t.reg 0xF == 1) &&
      gives (start 0x8124 (regs [(1, 0xFF), (0xF, 1)])) (fun t => t.reg 1 == 0xFF && t.reg 0xF == 0)) = true := by
  decide +kernel
/-- A11, A12. -/
theorem test_addR_flag_wins :
    (gives (start 0x8F24 (regs [(0xF, 0xF0), (2, 0x20)])) (fun t => t.reg 0xF == 1) &&
      gives (start 0x81F4 (regs [(1, 1), (0xF, 2)])) (fun t => t.reg 1 == 3 && t.reg 0xF == 0)) = true := by decide +kernel
/-- S2a, A15. -/
theorem test_sub_borrow :
    (gives (start 0x8125 (regs [(1, 5), (2, 0xA), (0xF, 1)])) (fun t => t.reg 1 == 0xFB && t.reg 0xF == 0) &&
      gives (start 0x8125 (regs [(1, 0x33), (2, 0x33)])) (fun t => t.reg 1 == 0 && t.reg 0xF == 1)) = true := by
  decide +kernel
/-- A17, A18. -/
theorem test_sub_flag_wins :
    (gives (start 0x8F25 (regs [(0xF, 5), (2, 0xA)])) (fun t => t.reg 0xF == 0) &&
      gives (start 0x81F5 (regs [(1, 5), (0xF, 6)])) (fun t => t.reg 1 == 0xFF && t.reg 0xF == 0)) = true := by
  decide +kernel
/-- A19, A20. -/
theorem test_subn :
    (gives (start 0x8127 (regs [(1, 5), (2, 0xA)])) (fun t => t.reg 1 == 5 && t.reg 0xF == 1) &&
      gives (start 0x8127 (regs [(1, 0xA), (2, 5)])) (fun t => t.reg 1 == 0xFB && t.reg 0xF == 0)) = true := by
  decide +kernel
/-- S3a, A25. -/
theorem test_shr_vx :
    (gives (start 0x8126 (regs [(1, 3), (2, 0xF0)])) (fun t => t.reg 1 == 1 && t.reg 0xF == 1 && t.reg 2 == 0xF0) &&
      gives (start 0x8F26 (regs [(0xF, 3)])) (fun t => t.reg 0xF == 1)) = true := by decide +kernel

/-- Reset with SHIFT_SRC = VY. -/
def resetVY : State := State.resetWith { defaultConfig with shiftSrc := .vy }

/-- A24. -/
theorem test_shr_vy :
    gives (start 0x8126 (regs [(1, 4), (2, 0xF1)] resetVY))
      (fun t => t.reg 1 == 0x78 && t.reg 0xF == 1 && t.reg 2 == 0xF1) = true := by decide +kernel
/-- A30, A32. -/
theorem test_shl_vx :
    (gives (start 0x812E (regs [(1, 0x40), (2, 0xFF), (0xF, 1)])) (fun t => t.reg 1 == 0x80 && t.reg 0xF == 0) &&
      gives (start 0x8FFE (regs [(0xF, 0x80)])) (fun t => t.reg 0xF == 1)) = true := by decide +kernel
/-- A31. -/
theorem test_shl_vy :
    gives (start 0x812E (regs [(1, 0x81), (2, 1)] resetVY)) (fun t => t.reg 1 == 2 && t.reg 0xF == 0 && t.reg 2 == 1) =
      true := by decide +kernel
/-- A37. -/
theorem test_rnd_masks_the_given_byte :
    answers (.step 0xB7) (start 0xC30F) (fun t r => t.reg 3 == 7 && t.pc == 0x202 && r == .stepped none) = true := by
  decide +kernel
/-- A41: the input is ignored by another instruction. -/
theorem test_rnd_ignored_elsewhere :
    answers (.step 0x5A) (start 0x6000) (fun t _ => t.reg 0 == 0 && t.pc == 0x202) = true := by decide +kernel
/-- M1. -/
theorem test_ldIndex : gives (start 0xAFFF) (fun t => t.i == 0xFFF && t.pc == 0x202) = true := by decide +kernel
/-- M3, M4. -/
theorem test_addIndex_range_flag :
    (gives (start 0xF21E (regs [(2, 0x0F), (0xF, 1)] { State.reset with i := 0xFF0 }))
        (fun t => t.i == 0xFFF && t.reg 0xF == 0) &&
      gives (start 0xF21E (regs [(2, 0x10)] { State.reset with i := 0xFF0 }))
        (fun t => t.i == 0x1000 && t.reg 0xF == 1)) = true := by decide +kernel
/-- M5, M6. -/
theorem test_addIndex_wraps_and_reads_vf_first :
    (gives (start 0xF21E (regs [(2, 1)] { State.reset with i := 0xFFFF })) (fun t => t.i == 0 && t.reg 0xF == 1) &&
      gives (start 0xFF1E (regs [(0xF, 5)] { State.reset with i := 0x100 })) (fun t => t.i == 0x105 && t.reg 0xF == 0)) =
      true := by decide +kernel
/-- M10, M11. -/
theorem test_ldFont :
    (gives (start 0xF029 (regs [(0, 0x0F)])) (fun t => t.i == 0x9B) &&
      gives (start 0xF029 (regs [(0, 0x1A)])) (fun t => t.i == 0x82)) = true := by decide +kernel
/-- M17. -/
theorem test_ldBcd_top_of_memory :
    gives (start 0xF033 (regs [(0, 0x7B)] { State.reset with i := 0xFFD }))
      (fun t => t.byte 0xFFD == 1 && t.byte 0xFFE == 2 && t.byte 0xFFF == 3 && t.i == 0xFFD && t.pc == 0x202) = true := by
  decide +kernel
/-- M18. -/
theorem test_ldBcd_faults :
    gives (start 0xF033 (regs [(0, 0x7B)] { State.reset with i := 0xFFE }))
      (fun t => t.err.code == 3 && t.pc == 0x200 && t.byte 0xFFE == 0 && t.byte 0xFFF == 0) = true := by decide +kernel
/-- M22. -/
theorem test_ldStore_one :
    gives (start 0xF055 (regs [(0, 0xAB), (1, 0xCD)] { State.reset with i := 0xFFF }))
      (fun t => t.byte 0xFFF == 0xAB && t.pc == 0x202 && t.i == 0xFFF) = true := by decide +kernel
/-- M23. -/
theorem test_ldStore_faults :
    gives (start 0xF155 (regs [(0, 0xAB), (1, 0xCD)] { State.reset with i := 0xFFF }))
      (fun t => t.err.code == 3 && t.pc == 0x200 && t.byte 0xFFF == 0) = true := by decide +kernel
/-- M24. -/
theorem test_ldLoad :
    gives (start 0xF265 (bytesAt 0x300 [0xDE, 0xAD, 0xBE, 0xEF] (regs [(3, 0x77)])))
      (fun t => t.reg 0 == 0xDE && t.reg 1 == 0xAD && t.reg 2 == 0xBE && t.reg 3 == 0x77 && t.i == 0x300) = true := by
  decide +kernel
/-- M26. -/
theorem test_ldLoad_faults :
    gives (start 0xFF65 (regs [(0, 5)] { State.reset with i := 0xFF1 }))
      (fun t => t.err.code == 3 && t.pc == 0x200 && t.reg 0 == 5) = true := by decide +kernel
/-- D1. -/
theorem test_cls :
    gives (start 0x00E0 (lit [(0, 0), (63, 31)] (regs [(0xF, 1)])))
      (fun t => showsOnly [] t && t.drawf && t.pc == 0x202 && t.reg 0xF == 1) = true := by decide +kernel
/-- D15. -/
theorem test_drw_wraps :
    gives (start 0xD012 (bytesAt 0x300 [0xFF, 0x0F] (regs [(0, 60), (1, 31), (0xF, 1)])))
      (fun t => showsOnly [(60, 31), (61, 31), (62, 31), (63, 31), (0, 31), (1, 31), (2, 31), (3, 31), (0, 0), (1, 0),
        (2, 0), (3, 0)] t && t.reg 0xF == 0 && t.drawf && t.pc == 0x202) = true := by decide +kernel
/-- D14. -/
theorem test_drw_collides :
    gives (start 0xD011 (bytesAt 0x300 [0xC0] (lit [(1, 1), (3, 1)] (regs [(0, 1), (1, 1)]))))
      (fun t => showsOnly [(2, 1), (3, 1)] t && t.reg 0xF == 1) = true := by decide +kernel
/-- T1. -/
theorem test_ldGetDT :
    gives (start 0xF107 (regs [(1, 1)] { State.reset with dt := 0x2A })) (fun t => t.reg 1 == 0x2A && t.dt == 0x2A) =
      true := by decide +kernel
/-- T3. -/
theorem test_ldSetDT :
    gives (start 0xF015 (regs [(0, 0xFF)] { State.reset with dt := 3 })) (fun t => t.dt == 0xFF && t.st == 0) = true := by
  decide +kernel
/-- T6. -/
theorem test_ldSetST :
    gives (start 0xF018 { State.reset with st := 7, sndp := true }) (fun t => t.st == 0 && t.sndp && t.dt == 0) = true := by
  decide +kernel
/-- T8, T9. -/
theorem test_skp :
    (gives (start 0xE09E (regs [(0, 0x0F)] (State.reset.setKeyBit 14 true))) (fun t => t.pc == 0x202) &&
      gives (start 0xE09E (regs [(0, 0x17)] (State.reset.setKeyBit 7 true))) (fun t => t.pc == 0x204)) = true := by
  decide +kernel
/-- T10, T11. -/
theorem test_sknp :
    (gives (start 0xE0A1 (regs [(0, 0x17)] (State.reset.setKeyBit 7 true))) (fun t => t.pc == 0x202) &&
      gives (start 0xE0A1) (fun t => t.pc == 0x204)) = true := by decide +kernel
/-- T13. -/
theorem test_ldKey_waits :
    gives (start 0xF30A (regs [(3, 0x55)])) (fun t => t.pc == 0x200 && t.reg 3 == 0x55 && t.await) = true := by
  decide +kernel
/-- T15. -/
theorem test_ldKey_smallest :
    gives (start 0xF30A (regs [(3, 0x55)] (((State.reset.setKeyBit 15 true).setKeyBit 9 true).setKeyBit 12 true)))
      (fun t => t.pc == 0x202 && t.reg 3 == 9 && !t.await) = true := by decide +kernel

/-! ### The Step and the commands -/

/-- S8. -/
theorem test_unknown_opcode :
    answers (.step 0) (start 0x800F) (fun t r => t.pc == 0x202 && r == .stepped (some ⟨0x200, 0x800F⟩) &&
      { t with pc := 0x200 } == start 0x800F) = true := by decide +kernel
/-- C20: pc = 0xFFF. -/
theorem test_fetch_fault :
    answers (.step 0) { State.reset with pc := 0xFFF }
      (fun t r => t.err.code == 3 && t.pc == 0xFFF && r == .stepped none) = true := by decide +kernel
/-- C21: an odd pc. -/
theorem test_odd_pc : gives (start 0x1300 { State.reset with pc := 0x201 }) (fun t => t.pc == 0x300) = true := by
  decide +kernel
/-- H8. -/
theorem test_halted :
    answers (.step 0) (start 0x6005 { State.reset with err := .stackUnderflow })
      (fun t r => t == start 0x6005 { State.reset with err := .stackUnderflow } && r == .stepped none) = true := by
  decide +kernel
/-- T18, T19. -/
theorem test_await_cleared :
    (gives (start 0x6000 { State.reset with await := true }) (fun t => !t.await && t.pc == 0x202) &&
      gives (start 0xF000 { State.reset with await := true }) (fun t => !t.await && t.pc == 0x202)) = true := by
  decide +kernel
/-- H3: a Tick while halted. -/
theorem test_tick_while_halted :
    answers .tick { State.reset with dt := 5, st := 1, err := .stackOverflow }
      (fun t r => t.dt == 4 && t.st == 0 && t.sndp && t.err.code == 1 && r == .done) = true := by decide +kernel
/-- S7, H1: the clamp, and SNDP cleared again. -/
theorem test_tick_clamps :
    answers .tick { State.reset with sndp := true } (fun t _ => t.dt == 0 && t.st == 0 && !t.sndp) = true := by
  decide +kernel
/-- H5. -/
theorem test_setKey :
    (answers (.setKey 10 true) State.reset (fun t _ => t == State.reset.setKeyBit 10 true && t.keyDown 10) &&
      answers (.setKey 10 false) (State.reset.setKeyBit 10 true) (fun t _ => t == State.reset)) = true := by
  decide +kernel
/-- H6. -/
theorem test_consumeRedraw :
    (answers .consumeRedraw { State.reset with drawf := true } (fun t r => !t.drawf && r == .redraw true) &&
      answers .consumeRedraw State.reset (fun t r => !t.drawf && r == .redraw false)) = true := by decide +kernel
/-- H9. -/
theorem test_reset :
    answers .reset (lit [(1, 1)] (bytesAt 0x300 [0x55] (regs [(3, 7)] { State.reset.setKeyBit 2 true with
        err := .addressFault, pc := 0x1000, sp := 4, drawf := true, sndp := true })))
      (fun t r => t == State.reset && r == .done && t.byte 0x300 == 0 && t.byte 0x50 == 0xF0 && t.byte 0x51 == 0x90 &&
        t.byte 0x54 == 0xF0) = true := by decide +kernel
/-- H10, H11. -/
theorem test_load :
    (answers (.load []) State.reset (fun t r => t == State.reset && r == .loaded none) &&
      answers (.load [0x12, 0x34]) State.reset (fun t r => t.byte 0x200 == 0x12 && t.byte 0x201 == 0x34 &&
        t.byte 0x202 == 0 && r == .loaded none)) = true := by decide +kernel
/-- S6a. -/
theorem test_load_too_long :
    answers (.load (List.replicate 3585 0xFF)) State.reset
      (fun t r => t == State.reset && r == .loaded (some .tooLong)) = true := by decide +kernel
/-- H12: Status after the overflow of P5a, and the other observers. -/
theorem test_observers :
    (gives (start 0x2200 { State.reset with sp := 16 }) (fun t => t.status == ⟨1, false, 0x200⟩) &&
      State.isSoundPending { State.reset with sndp := true } && (lit [(5, 7)]).getFramebuffer 5 7 &&
      !(lit [(5, 7)]).getFramebuffer 7 5) = true := by decide +kernel
/-- R30: the four codes of ERR. -/
theorem test_error_codes :
    ErrCode.none.code = 0 ∧ ErrCode.stackOverflow.code = 1 ∧ ErrCode.stackUnderflow.code = 2 ∧
      ErrCode.addressFault.code = 3 := by decide
/-- R161: LoadByte below 0x200 is ignored; at 0x200 it writes. -/
theorem test_port_loadByte :
    ((State.reset.loadByte 0x1FF 0x55) == State.reset && (State.reset.loadByte 0x200 0x55).byte 0x200 == 0x55) = true := by
  decide +kernel

/-! ### Witnesses: for every statement with hypotheses, a state and operands that meet them, clause by clause at the boundary -/

theorem witness_DecodeOfEncodeIsTheInstruction :
    (Instr.drw 0xF 0xF 0xF).wellFormed = true ∧ (Instr.jp 0xFFF).wellFormed = true ∧ Instr.cls.wellFormed = true := by
  decide
theorem witness_EncodeOfDecodeIsTheWord :
    decodeWord 0xFFFF = none ∧ decodeWord 0xDFFF = some (.drw 0xF 0xF 0xF) ∧ decodeWord 0x1000 = some (.jp 0) := by decide
theorem witness_NoWordMatchesTwoRows :
    ∃ r ∈ opcodeTable, ∃ q ∈ opcodeTable, r.covers 0xF165 = true ∧ q.covers 0xF165 = true :=
  ⟨⟨"LD_LOAD", 0xF0FF, 0xF065⟩, by decide, ⟨"LD_LOAD", 0xF0FF, 0xF065⟩, by decide, by decide, by decide⟩
theorem witness_DecoderAgreesWithOpcodeTable :
    ∃ r ∈ opcodeTable, r.covers 0x00EE = true ∧ r.covers 0x00EF = false ∧ decodeWord 0x00EE = some .ret ∧
      Instr.ret.mnemonic = r.mnemonic :=
  ⟨⟨"RET", 0xFFFF, 0x00EE⟩, by decide, by decide, by decide, by decide, by decide⟩
/-- One word at the edge of each class of unknown words, and its known neighbour. -/
theorem witness_UnknownWordsByClass :
    (decodeWord 0x00EF = none ∧ decodeWord 0x51FF = none ∧ decodeWord 0x800F = none ∧ decodeWord 0x9001 = none ∧
      decodeWord 0xE09D = none ∧ decodeWord 0xF066 = none) ∧
    (decodeWord 0x00EE ≠ none ∧ decodeWord 0x51F0 ≠ none ∧ decodeWord 0x800E ≠ none ∧ decodeWord 0x9000 ≠ none ∧
      decodeWord 0xE09E ≠ none ∧ decodeWord 0xF065 ≠ none) := by decide

/-- Both outcomes of each comparison; and, for the registers, the nonzero low nibbles of 5XYN and 9XYN. -/
theorem witness_SkipOnImmediate :
    (State.reset.reg 0xF = 0) ∧ (State.reset.reg 0xF ≠ 0xFF) := by decide
theorem witness_SkipOnRegisters :
    ((1 : Nibble) ≠ 0 ∧ (0xF : Nibble) ≠ 0) ∧ (regs [(1, 1)]).reg 1 ≠ (regs [(1, 1)]).reg 2 ∧
      (regs [(1, 1)]).reg 3 = (regs [(1, 1)]).reg 2 := by decide
/-- A jump onto itself; a target of 0xFFF; a sum of 0x10FE. -/
theorem witness_JumpGoesToAddress :
    State.reset.pc.toNat = (0x200 : Addr12).toNat ∧ 0xFFE < (0xFFF : Addr12).toNat ∧ State.reset.Running :=
  ⟨by decide, by decide, rfl⟩
theorem witness_JumpWithOffsetAddsV0 :
    (regs [(0, 0xFF)]).Running ∧ 0xFFE < (0xFFF : Addr12).toNat + ((regs [(0, 0xFF)]).reg 0).toNat := ⟨rfl, by decide⟩
/-- The first Tick with the value 1, and the last with 255. -/
theorem witness_TimerRegistersReadAndWritten :
    0 < 1 ∧ ((regs [(0, 1)]).reg 0).toNat = 1 ∧ ((regs [(0, 0xFF)]).reg 0).toNat = 255 := by decide
theorem witness_CallPushesItsOwnAddress :
    (({ State.reset with sp := 15 } : State).sp.val < 16) ∧ (({ State.reset with sp := 16 } : State).sp.val = 16) := by
  decide
theorem witness_ReturnGoesPastTheCall :
    (0 < ({ State.reset with sp := 1 } : State).sp.val) ∧ (State.reset.sp.val = 0) := by decide
theorem witness_ReturnUndoesCall :
    ({ State.reset with sp := 15 } : State).sp.val < 16 ∧ State.reset.sp.val < 16 := by decide
theorem witness_ShiftsMoveOneBitIntoVF :
    State.reset.cfg.shiftSrc = .vx ∧ resetVY.cfg.shiftSrc ≠ .vx := by decide
theorem witness_RandomByteIsMasked : ({ State.reset with rndIn := some 0xB7 } : State).rndIn = some 0xB7 := rfl
/-- VF changed by a flag writer, and by a named destination; a flag writer and a completed draw. -/
theorem witness_OnlyFlagWritersAndDestinationsChangeVF :
    (∃ t, exec (.addR 1 1) (regs [(1, 0x80)]) = .next t ∧ t.reg 0xF ≠ (regs [(1, 0x80)]).reg 0xF) ∧
    (∃ t, exec (.ldI 0xF 0xAB) State.reset = .next t ∧ t.reg 0xF ≠ State.reset.reg 0xF) ∧
    (∃ t, exec (.drw 0 0 0) State.reset = .next t ∧ t.pc ≠ State.reset.pc) :=
  ⟨⟨_, rfl, by decide⟩, ⟨_, rfl, by decide⟩, ⟨_, rfl, by decide⟩⟩
theorem witness_StoreDecimalDigits :
    ({ State.reset with i := 0xFFD } : State).indexAddr + 2 ≤ 0xFFF ∧
      0xFFF < ({ State.reset with i := 0xFFE } : State).indexAddr + 2 := by decide
theorem witness_StoreRegisterBlock :
    ({ State.reset with i := 0xFF0 } : State).indexAddr + (0xF : Nibble).toNat ≤ 0xFFF ∧
      0xFFF < ({ State.reset with i := 0xFF1 } : State).indexAddr + (0xF : Nibble).toNat := by decide
theorem witness_LoadRegisterBlock :
    ({ State.reset with i := 0xFFF } : State).indexAddr + (0x0 : Nibble).toNat ≤ 0xFFF ∧
      0xFFF < ({ State.reset with i := 0xFFF } : State).indexAddr + (0x1 : Nibble).toNat := by decide
/-- No row at an index outside memory; a last row at 0xFFF, and at 0x1000. -/
theorem witness_DrawXorsTheWrappedSprite :
    ((0 : Nibble).toNat = 0) ∧
    ({ State.reset with i := 0xFF1 } : State).i.toNat + (0xF : Nibble).toNat - 1 ≤ 0xFFF ∧
    (0 < (0xF : Nibble).toNat ∧ 0xFFF < ({ State.reset with i := 0xFF2 } : State).i.toNat + (0xF : Nibble).toNat - 1) := by
  decide
theorem witness_DrawingTwiceRestores :
    (0 : Nibble) ≠ 0xF ∧ (1 : Nibble) ≠ 0xF ∧
      ((2 : Nibble).toNat = 0 ∨ (bytesAt 0x20C [0xC3, 0x81]).i.toNat + (2 : Nibble).toNat - 1 ≤ 0xFFF) := by decide
theorem witness_SkipOnKey :
    (State.reset.setKeyBit 0xF true).keyDown 0xF = true ∧ (State.reset.setKeyBit 0xF true).keyDown 0 = false := by decide
/-- The smallest key is 0; the smallest key is 15. -/
theorem witness_KeyReadStoresSmallestKey :
    (State.reset.setKeyBit 0 true).keyDown 0 = true ∧
      (∀ j : Nibble, j.toNat < (0 : Nibble).toNat → (State.reset.setKeyBit 0 true).keyDown j = false) ∧
      (State.reset.setKeyBit 0xF true).keyDown 0xF = true ∧
      (∀ j : Nibble, j.toNat < (0xF : Nibble).toNat → (State.reset.setKeyBit 0xF true).keyDown j = false) := by
  decide +kernel
theorem witness_KeyReadWaits :
    (start 0xF30A).Running ∧ (start 0xF30A).pc.toNat ≤ 0xFFE ∧ (start 0xF30A).fetchWord = 0xF#4 ++ 3#4 ++ 0x0A#8 ∧
      (∀ k, (start 0xF30A).keyDown k = false) := ⟨rfl, by decide +kernel, by decide +kernel, by decide +kernel⟩
/-- At the last address an instruction can stand at. -/
theorem witness_StepRunsTheDecodedInstruction :
    let s := start 0x6FAB { State.reset with pc := 0xFFE }
    s.Running ∧ s.pc.toNat ≤ 0xFFE ∧ decode [s.byte s.pc.toNat, s.byte (s.pc.toNat + 1)] = .ok (.ldI 0xF 0xAB, []) ∧
      ∃ t, exec (.ldI 0xF 0xAB) s = .next t := ⟨rfl, by decide +kernel, by decide +kernel, _, rfl⟩
theorem witness_HaltedStepDoesNothing :
    ({ State.reset with err := .stackOverflow } : State).err ≠ .none ∧
      ({ State.reset with err := .stackOverflow } : State).rndIn = none := by decide
theorem witness_UnfetchablePcFaults :
    ({ State.reset with pc := 0xFFF } : State).Running ∧ 0xFFE < ({ State.reset with pc := 0xFFF } : State).pc.toNat :=
  ⟨rfl, by decide⟩
theorem witness_UnknownOpcodeIsSkippedAndReported :
    let s := ({ State.reset with pc := 0xFFE } : State)
    s.Running ∧ s.pc.toNat ≤ 0xFFE ∧ s.rndIn = none ∧ decodeWord s.fetchWord = none :=
  ⟨rfl, by decide, rfl, by decide +kernel⟩
theorem witness_EventsOnlyFromUnknownOpcodes :
    ∃ t e, perform (.step 0) (start 0x800F) = .next (t, .stepped (some e)) := ⟨_, _, rfl⟩
/-- The wait, and an instruction that is none. -/
theorem witness_AwaitAfterEveryStep :
    ((start 0xF30A).Running ∧ ∃ t, step (start 0xF30A) = .next t ∧ t.await = true) ∧
      ((start 0x6000).Running ∧ ∃ t, step (start 0x6000) = .next t ∧ t.await = false) :=
  ⟨⟨rfl, _, rfl, rfl⟩, ⟨rfl, _, rfl, rfl⟩⟩
/-- Each of the seven causes, at its boundary. -/
theorem witness_FatalErrorsArePreciseAndCaused :
    (∃ t, step (start 0x2ABC { State.reset with sp := 16 }) = .next t ∧ t.err = .stackOverflow) ∧
    (∃ t, step (start 0x00EE) = .next t ∧ t.err = .stackUnderflow) ∧
    (∃ t, step { State.reset with pc := 0xFFF } = .next t ∧ t.err = .addressFault) ∧
    (∃ t, step (start 0xF033 { State.reset with i := 0xFFE }) = .next t ∧ t.err = .addressFault) ∧
    (∃ t, step (start 0xF155 { State.reset with i := 0xFFF }) = .next t ∧ t.err = .addressFault) ∧
    (∃ t, step (start 0xF165 { State.reset with i := 0xFFF }) = .next t ∧ t.err = .addressFault) ∧
    (∃ t, step (start 0xD01F { State.reset with i := 0xFF2 }) = .next t ∧ t.err = .addressFault) :=
  ⟨⟨_, rfl, rfl⟩, ⟨_, rfl, rfl⟩, ⟨_, rfl, rfl⟩, ⟨_, rfl, rfl⟩, ⟨_, rfl, rfl⟩, ⟨_, rfl, rfl⟩, ⟨_, rfl, rfl⟩⟩
theorem witness_JumpToItselfIsStable :
    (start 0x1200).Running ∧ (start 0x1200).await = false ∧ (start 0x1200).pc.toNat = (0x200 : Addr12).toNat ∧
      (0x200 : Addr12).toNat ≤ 0xFFE ∧ (start 0x1200).fetchWord = 0x1#4 ++ (0x200 : Addr12) :=
  ⟨rfl, rfl, by decide +kernel, by decide, by decide +kernel⟩
/-- The program P7 of spec/95_test_vectors.md, at its store. -/
theorem witness_StoredCodeIsFetched :
    let s := ({ State.reset with pc := 0x206, i := 0x208 } : State)
    s.indexAddr + (1 : Nibble).toNat ≤ 0xFFF ∧ 0 < (1 : Nibble).toNat ∧ s.pc.toNat + 2 = s.indexAddr + 0 ∧
      ∃ t, exec (.ldStore 1) s = .next t := ⟨by decide, by decide, by decide, _, rfl⟩

theorem inv_reset : State.reset.Inv :=
  ⟨State.resetWith_wf _, fun _ h => absurd h (Nat.not_lt_zero _), (by decide : State.reset.pc.toNat ≤ 0x10FE),
    fun h => absurd rfl h⟩
theorem witness_StepKeepsTheInvariant : State.reset.Inv ∧ ∃ t, step State.reset = .next t := ⟨inv_reset, _, rfl⟩
theorem witness_CommandsKeepTheInvariant :
    State.reset.Inv ∧ (∃ t r, perform .reset State.reset = .next (t, r)) ∧
      (∃ t r, perform (.load [0x12, 0x34]) State.reset = .next (t, r)) ∧
      (∃ t r, perform (.step 0) State.reset = .next (t, r)) ∧ (∃ t r, perform .tick State.reset = .next (t, r)) ∧
      (∃ t r, perform (.setKey 0xF true) State.reset = .next (t, r)) ∧
      (∃ t r, perform .consumeRedraw State.reset = .next (t, r)) :=
  ⟨inv_reset, ⟨_, _, rfl⟩, ⟨_, _, rfl⟩, ⟨_, _, rfl⟩, ⟨_, _, rfl⟩, ⟨_, _, rfl⟩, ⟨_, _, rfl⟩⟩
theorem witness_StepLeavesTheHostsCells :
    (∃ t, step ({ State.reset with drawf := true } : State) = .next t) ∧
      (∃ t, step ({ State.reset with err := .stackOverflow } : State) = .next t) := ⟨⟨_, rfl⟩, ⟨_, rfl⟩⟩
/-- Each cell changed by one of its writers. -/
theorem witness_CellsChangeOnlyByTheirWriters :
    (∃ t, step (start 0xAFFF) = .next t ∧ t.i ≠ (start 0xAFFF).i) ∧
    (∃ t, step (start 0xF015 (regs [(0, 1)])) = .next t ∧ t.dt ≠ (start 0xF015 (regs [(0, 1)])).dt) ∧
    (∃ t, step (start 0xF018 (regs [(0, 1)])) = .next t ∧ t.st ≠ (start 0xF018 (regs [(0, 1)])).st) ∧
    (∃ t, step (start 0xF055 (regs [(0, 1)])) = .next t ∧ t.mem ≠ (start 0xF055 (regs [(0, 1)])).mem) ∧
    (∃ t, step (start 0x00E0) = .next t ∧ t.drawf ≠ (start 0x00E0).drawf) ∧
    (∃ t, step (start 0x2ABC) = .next t ∧ t.sp ≠ (start 0x2ABC).sp) :=
  ⟨⟨_, rfl, by decide +kernel⟩, ⟨_, rfl, by decide +kernel⟩, ⟨_, rfl, by decide +kernel⟩, ⟨_, rfl, by decide +kernel⟩,
    ⟨_, rfl, by decide +kernel⟩, ⟨_, rfl, by decide +kernel⟩⟩
theorem witness_InputsAreReadOnlyWhereNamed :
    (∃ t, exec (.ldI 0 0) State.reset = .next t) ∧ (∀ x kk, Instr.ldI 0 0 ≠ .rnd x kk) ∧
      ((∀ x, Instr.ldI 0 0 ≠ .skp x) ∧ (∀ x, Instr.ldI 0 0 ≠ .sknp x) ∧ (∀ x, Instr.ldI 0 0 ≠ .ldKey x)) ∧
      (∀ x, Instr.ldI 0 0 ≠ .ldGetDT x) :=
  ⟨⟨_, rfl⟩, by simp, ⟨by simp, by simp, by simp⟩, by simp⟩
theorem witness_StepIgnoresOutputCells : ∃ t, step State.reset = .next t := ⟨_, rfl⟩
/-- A full program, one byte too many, and the last byte and its neighbours. -/
theorem witness_LoadWritesTheProgramOrNothing :
    (List.replicate 3584 (0xFF : Byte)).length ≤ 3584 ∧ 3584 < (List.replicate 3585 (0xFF : Byte)).length ∧
      3583 < (List.replicate 3584 (0xFF : Byte)).length ∧
      (0x1FF < 0x200 ∧ 0x200 + (List.replicate 3584 (0xFF : Byte)).length ≤ 0x1000) := by
  simp only [List.length_replicate]; decide
theorem witness_ResetGivesTheResetState :
    State.reset.cfg.fontBase.val + (79 : Fin 80).val = 0x9F ∧ 0x4F < State.reset.cfg.fontBase.val ∧
      State.reset.cfg.fontBase.val + 80 ≤ 0xA0 := by decide
theorem witness_StepCommandSuppliesTheRandomByte :
    (start 0xC30F).Running ∧ (start 0xC30F).pc.toNat ≤ 0xFFE ∧ (start 0xC30F).fetchWord = 0xC#4 ++ 3#4 ++ 0x0F#8 :=
  ⟨rfl, by decide +kernel, by decide +kernel⟩

/-- Ports with a command on them. -/
def ports (cmd : BitVec 3) : PortIn := ⟨true, cmd, 0xF, true, 0x200, 0x55, 0xB7, 63, 31⟩

/-- Every value of `cmd`, and none valid. -/
theorem witness_PortCyclesAreCommands :
    (({ ports 1 with cmdValid := false } : PortIn).cmdValid = false) ∧ (ports 0).cmd = 0 ∧ (ports 7).cmd = 7 ∧
      ((ports 1).cmdValid = true ∧ (ports 1).cmd = 1) ∧ ((ports 2).cmdValid = true ∧ (ports 2).cmd = 2) ∧
      ((ports 3).cmdValid = true ∧ (ports 3).cmd = 3) ∧ ((ports 4).cmdValid = true ∧ (ports 4).cmd = 4) ∧
      (ports 3).cmd ≠ 2 ∧ ((ports 5).cmdValid = true ∧ (ports 5).cmd = 5) ∧ ((ports 6).cmdValid = true ∧ (ports 6).cmd = 6) := by decide
theorem witness_LoadIsARunOfLoadBytes : ∃ t, State.reset.load [0x12, 0x34] = .ok t := ⟨_, rfl⟩

end Sys2Proof.Tests
end

section
/-! PROOFS. Control transfer: the skips and the jumps (spec/41_control_flow.md R91, R93 to R97), with the two facts they share
with other families: the decoder undoes the encoder, and a running block whose pc cannot be fetched faults. -/

namespace Sys2Proof.Machine

/-! ### The decoder on encoded words (spec/30_encoding.md R62, R66) -/

/-- Class by class: each field of the word reads back as it was put in, so the decoder's dispatch on the class, and on the
selector where the class has one, finds the instruction's own row. -/
theorem decodeWord_encode (i : Instr) : decodeWord (encode i) = some i := by
  cases i with
  | cls => rfl
  | ret => rfl
  | jp | call | ldIndex | jpV0 | seI | sneI | ldI | addI | rnd | seR | sneR | drw => simp [encode, decodeWord]
  | ldR | orR | andR | xorR | addR | sub | shr | subn | shl => simp [encode, decodeWord, decodeClass8]
  | skp | sknp => simp [encode, decodeWord, decodeClassE]
  | ldGetDT | ldKey | ldSetDT | ldSetST | addIndex | ldFont | ldBcd | ldStore | ldLoad =>
    simp [encode, decodeWord, decodeClassF]

theorem decodeWord_class5_eq_none (x y : Nibble) {n : Nibble} (hn : n ≠ 0) : decodeWord (encXYN 0x5 x y n) = none := by
  simpa [decodeWord] using hn

theorem decodeWord_class9_eq_none (x y : Nibble) {n : Nibble} (hn : n ≠ 0) : decodeWord (encXYN 0x9 x y n) = none := by
  simpa [decodeWord] using hn

/-! ### Writing pc, and the Step from a pc that cannot be fetched -/

theorem onlyPc_setPc (s : State) (w : Word) : OnlyPc s (s.setPc w) :=
  ⟨fun _ => rfl, rfl, ⟨rfl, fun _ => rfl⟩, ⟨rfl, rfl⟩, fun _ => rfl, ⟨fun _ _ => rfl, rfl⟩,
    ⟨fun _ => rfl, rfl, rfl, rfl⟩, rfl, rfl, rfl⟩

theorem State.setPc_self (s : State) : s.setPc s.pc = s := rfl

/-- A skip writes pc and nothing else (spec/41_control_flow.md section 2). -/
theorem skipIf_eq_setPc (c : Bool) (s : State) : skipIf c s = s.setPc (if c then s.pc + 4 else s.pc + 2) := by
  cases c <;> rfl

/-- The fetch check comes before decoding (spec/40_step_cycle.md R81; decision D6). -/
theorem step_of_unfetchable {s : State} (hr : s.Running) (hp : 0xFFE < s.pc.toNat) :
    step s = .next (s.raise .addressFault) := by
  have hh : s.halted = false := by simpa [State.halted, State.Running] using hr
  have hf : s.canFetch = false := by simpa [State.canFetch] using hp
  simp [step, cycle, hh, hf]

/-- The fault after a jump out of memory, as the statements on jumps say it: ERR is set and pc keeps the target. -/
theorem setPc_step_faults {s : State} {w : Word} (hr : s.Running) (hw : 0xFFE < w.toNat) :
    ∃ u, step (s.setPc w) = .next u ∧ u.err = .addressFault ∧ u.pc = (s.setPc w).pc :=
  ⟨_, step_of_unfetchable (s := s.setPc w) hr hw, rfl, rfl⟩

/-! ### What the instructions do to pc -/

theorem exec_seI (x : Nibble) (kk : Byte) (s : State) :
    exec (.seI x kk) s = .next (s.setPc (if s.reg x = kk then s.pc + 4 else s.pc + 2)) := by
  simp [exec, execSeI, skipIf_eq_setPc]

theorem exec_sneI (x : Nibble) (kk : Byte) (s : State) :
    exec (.sneI x kk) s = .next (s.setPc (if s.reg x ≠ kk then s.pc + 4 else s.pc + 2)) := by
  simp [exec, execSneI, skipIf_eq_setPc]

theorem exec_seR (x y : Nibble) (s : State) :
    exec (.seR x y) s = .next (s.setPc (if s.reg x = s.reg y then s.pc + 4 else s.pc + 2)) := by
  simp [exec, execSeR, skipIf_eq_setPc]

theorem exec_sneR (x y : Nibble) (s : State) :
    exec (.sneR x y) s = .next (s.setPc (if s.reg x ≠ s.reg y then s.pc + 4 else s.pc + 2)) := by
  simp [exec, execSneR, skipIf_eq_setPc]

theorem exec_jp (nnn : Addr12) (s : State) : exec (.jp nnn) s = .next (s.setPc (addrOperand nnn)) := rfl

theorem exec_jpV0 (nnn : Addr12) (s : State) : exec (.jpV0 nnn) s = .next (s.setPc (jumpV0Target s nnn)) := rfl

theorem addrOperand_toNat (nnn : Addr12) : (addrOperand nnn).toNat = nnn.toNat :=
  BitVec.toNat_setWidth_of_le (by decide)

/-- The sum of BNNN is at most 0xFFF + 0xFF, so 16 bits hold it unreduced (R93). -/
theorem jumpV0Target_toNat (s : State) (nnn : Addr12) :
    (jumpV0Target s nnn).toNat = nnn.toNat + (s.reg 0).toNat := by
  have hn : nnn.toNat < 4096 := nnn.isLt
  have hv : (s.reg 0).toNat < 256 := (s.reg 0).isLt
  exact (BitVec.toNat_ofNat _ _).trans (Nat.mod_eq_of_lt (by omega))

/-! ### The statements of the family -/

/-- Settles O7: each skip writes pc alone, with the value of its comparison. -/
theorem skipOnImmediate : Obligations.SkipOnImmediate := fun x kk s =>
  ⟨⟨decodeWord_encode (.seI x kk), _, exec_seI x kk s, rfl, onlyPc_setPc s _⟩,
    ⟨decodeWord_encode (.sneI x kk), _, exec_sneI x kk s, rfl, onlyPc_setPc s _⟩⟩

/-- Settles O8: as O7, with the words of a nonzero low nibble left to the decoder. -/
theorem skipOnRegisters : Obligations.SkipOnRegisters := fun x y s =>
  ⟨⟨decodeWord_encode (.seR x y), _, exec_seR x y s, rfl, onlyPc_setPc s _⟩,
    ⟨decodeWord_encode (.sneR x y), _, exec_sneR x y s, rfl, onlyPc_setPc s _⟩,
    fun _ hn => ⟨decodeWord_class5_eq_none x y hn, decodeWord_class9_eq_none x y hn⟩⟩

/-- Settles O9: the jump writes pc alone, with its 12-bit address; from there the fetch check decides. -/
theorem jumpGoesToAddress : Obligations.JumpGoesToAddress := by
  intro nnn s
  have htarget := addrOperand_toNat nnn
  refine ⟨decodeWord_encode (.jp nnn), _, exec_jp nnn s, htarget, onlyPc_setPc s _, fun hself => ?_, fun hr hout => ?_⟩
  · have hpc : addrOperand nnn = s.pc := BitVec.eq_of_toNat_eq (htarget.trans hself.symm)
    rw [hpc, State.setPc_self]
  · exact setPc_step_faults hr (htarget ▸ hout)

/-- Settles O10: the jump writes pc alone, with the unreduced sum; from there the fetch check decides. -/
theorem jumpWithOffsetAddsV0 : Obligations.JumpWithOffsetAddsV0 := by
  intro nnn s
  have htarget := jumpV0Target_toNat s nnn
  exact ⟨decodeWord_encode (.jpV0 nnn), _, exec_jpV0 nnn s, htarget, onlyPc_setPc s _,
    fun hr hout => setPc_step_faults hr (htarget ▸ hout)⟩

end Sys2Proof.Machine
end

section
/-! PROOFS. Loads and arithmetic (spec/42_alu.md R102 to R104, R108, R109, R111): the integers behind the results and the flags
(R100), and the frame of an instruction that writes registers and pc only. -/

namespace Sys2Proof.Machine

/-! ### The frame of register writes and pc -/

theorem OnlyRegsAndPc.refl (s : State) : OnlyRegsAndPc s s :=
  ⟨rfl, ⟨rfl, fun _ => rfl⟩, ⟨rfl, rfl⟩, fun _ => rfl, ⟨fun _ _ => rfl, rfl⟩, ⟨fun _ => rfl, rfl, rfl, rfl⟩, rfl, rfl, rfl⟩

theorem OnlyRegsAndPc.advance {s t : State} (h : OnlyRegsAndPc s t) (n : Nat) : OnlyRegsAndPc s (t.advance n) := h

theorem OnlyRegsAndPc.setReg {s t : State} (h : OnlyRegsAndPc s t) (x : Nibble) (b : Byte) :
    OnlyRegsAndPc s (t.setReg x b) := h

theorem OnlyRegsAndPc.setRegFlag {s t : State} (h : OnlyRegsAndPc s t) (x : Nibble) (b : Byte) (f : Bool) :
    OnlyRegsAndPc s (t.setRegFlag x b f) := (h.setReg x b).setReg regF (flagByte f)

theorem onlyRegsAndPc_setReg_advance (s : State) (x : Nibble) (b : Byte) (n : Nat) :
    OnlyRegsAndPc s ((s.setReg x b).advance n) := ((OnlyRegsAndPc.refl s).setReg x b).advance n

theorem onlyRegsAndPc_setRegFlag_advance (s : State) (x : Nibble) (b : Byte) (f : Bool) (n : Nat) :
    OnlyRegsAndPc s ((s.setRegFlag x b f).advance n) := ((OnlyRegsAndPc.refl s).setRegFlag x b f).advance n

/-! ### Results and flags as integers (spec/42_alu.md R100) -/

theorem sumByte_toNat (a b : Byte) : (sumByte a b).toNat = (a.toNat + b.toNat) % 256 := BitVec.toNat_ofNat _ _

/-- The 256 that `diffByte` adds keeps its difference a natural number, and is 0 modulo 256. -/
theorem diffByte_toNat (a b : Byte) : ((diffByte a b).toNat : Int) = ((a.toNat : Int) - b.toNat) % 256 := by
  have hb : b.toNat < 256 := b.isLt
  have hd : (diffByte a b).toNat = (a.toNat + 256 - b.toNat) % 256 := BitVec.toNat_ofNat _ _
  omega

theorem flagByte_toNat (f : Bool) : (flagByte f).toNat = if f then 1 else 0 := by
  cases f <;> rfl

theorem State.toNat_reg_setRegFlag (s : State) (x r : Nibble) (b : Byte) (f : Bool) :
    ((s.setRegFlag x b f).reg r).toNat =
      if r = regF then (if f then 1 else 0) else if r = x then b.toNat else (s.reg r).toNat := by
  rw [State.reg_setRegFlag, apply_ite BitVec.toNat, apply_ite BitVec.toNat, flagByte_toNat]

/-! ### What a sum and a difference leave in the registers -/

theorem State.toNat_reg_setReg_sum (s : State) (x r : Nibble) (a b : Byte) :
    ((s.setReg x (sumByte a b)).reg r).toNat = if r = x then (a.toNat + b.toNat) % 256 else (s.reg r).toNat := by
  rw [State.reg_setReg, apply_ite BitVec.toNat, sumByte_toNat]

theorem State.toNat_reg_setRegFlag_sum (s : State) (x r : Nibble) (a b : Byte) :
    ((s.setRegFlag x (sumByte a b) (carryOut a b)).reg r).toNat =
      if r = regF then (if a.toNat + b.toNat > 255 then 1 else 0)
      else if r = x then (a.toNat + b.toNat) % 256 else (s.reg r).toNat := by
  simp only [State.toNat_reg_setRegFlag, sumByte_toNat, carryOut, decide_eq_true_eq]

/-- The one fact behind R109 and R111, which differ only in which operand is the minuend. -/
theorem State.toNat_reg_setRegFlag_diff (s : State) (x r : Nibble) (a b : Byte) :
    (((s.setRegFlag x (diffByte a b) (noBorrow a b)).reg r).toNat : Int) =
      if r = regF then (if a.toNat ≥ b.toNat then 1 else 0)
      else if r = x then ((a.toNat : Int) - b.toNat) % 256 else (s.reg r).toNat := by
  simp only [State.toNat_reg_setRegFlag, noBorrow, decide_eq_true_eq, Nat.cast_ite, diffByte_toNat, Nat.cast_one,
    Nat.cast_zero]

/-! ### What the instructions write -/

theorem exec_ldI (x : Nibble) (kk : Byte) (s : State) : exec (.ldI x kk) s = .next ((s.setReg x kk).advance 2) := rfl

theorem exec_ldR (x y : Nibble) (s : State) : exec (.ldR x y) s = .next ((s.setReg x (s.reg y)).advance 2) := rfl

theorem exec_addI (x : Nibble) (kk : Byte) (s : State) :
    exec (.addI x kk) s = .next ((s.setReg x (sumByte (s.reg x) kk)).advance 2) := rfl

theorem exec_addR (x y : Nibble) (s : State) :
    exec (.addR x y) s =
      .next ((s.setRegFlag x (sumByte (s.reg x) (s.reg y)) (carryOut (s.reg x) (s.reg y))).advance 2) := rfl

theorem exec_sub (x y : Nibble) (s : State) :
    exec (.sub x y) s =
      .next ((s.setRegFlag x (diffByte (s.reg x) (s.reg y)) (noBorrow (s.reg x) (s.reg y))).advance 2) := rfl

theorem exec_subn (x y : Nibble) (s : State) :
    exec (.subn x y) s =
      .next ((s.setRegFlag x (diffByte (s.reg y) (s.reg x)) (noBorrow (s.reg y) (s.reg x))).advance 2) := rfl

/-! ### The statements of the family -/

/-- Settles O17: the sum and its carry are written in the VF-last order, so the flag wins when X = 15. -/
theorem addRegistersCarry : Obligations.AddRegistersCarry := fun x y s =>
  ⟨decodeWord_encode (.addR x y), _, exec_addR x y s,
    fun r => State.toNat_reg_setRegFlag_sum s x r (s.reg x) (s.reg y), rfl, onlyRegsAndPc_setRegFlag_advance s x _ _ 2⟩

/-- Settles O18: the two instructions are one difference, with the operands exchanged. -/
theorem subtractRegistersNoBorrow : Obligations.SubtractRegistersNoBorrow := fun x y s =>
  ⟨⟨decodeWord_encode (.sub x y), _, exec_sub x y s,
      fun r => State.toNat_reg_setRegFlag_diff s x r (s.reg x) (s.reg y), rfl, onlyRegsAndPc_setRegFlag_advance s x _ _ 2⟩,
    ⟨decodeWord_encode (.subn x y), _, exec_subn x y s,
      fun r => State.toNat_reg_setRegFlag_diff s x r (s.reg y) (s.reg x), rfl, onlyRegsAndPc_setRegFlag_advance s x _ _ 2⟩⟩

/-- Settles O14: each instruction is one register write, of the immediate or of V[Y]. -/
theorem loadAndCopyRegister : Obligations.LoadAndCopyRegister := fun x y kk s =>
  ⟨⟨decodeWord_encode (.ldI x kk), _, exec_ldI x kk s,
      fun r => State.reg_setReg s x r kk, rfl, onlyRegsAndPc_setReg_advance s x _ 2⟩,
    ⟨decodeWord_encode (.ldR x y), _, exec_ldR x y s,
      fun r => State.reg_setReg s x r (s.reg y), rfl, onlyRegsAndPc_setReg_advance s x _ 2⟩⟩

/-- Settles O15: one register write of the wrapped sum, and no flag write: VF changes only as V[X]. -/
theorem addImmediateWraps : Obligations.AddImmediateWraps := fun x kk s =>
  ⟨decodeWord_encode (.addI x kk), _, exec_addI x kk s,
    fun r => State.toNat_reg_setReg_sum s x r (s.reg x) kk, rfl, onlyRegsAndPc_setReg_advance s x _ 2⟩

end Sys2Proof.Machine
end

section
/-! PROOFS. The index register (spec/43_index_memory.md R120): the frame of an instruction that writes I and pc only. -/

namespace Sys2Proof.Machine

/-! ### The frame of I and pc -/

/-- Everything but I and pc. -/
def OnlyIndexAndPc (s t : State) : Prop :=
  KeepsRegs s t ∧ KeepsStack s t ∧ KeepsTimers s t ∧ KeepsMemory s t ∧ KeepsDisplay s t ∧ KeepsStatus s t ∧
    KeepsParams s t ∧ KeepsInput s t

/-- The part of the frame that `OnlyRegsAndPc` shares is read off the unchanged state: no cell of it reads I or pc. -/
theorem onlyIndexAndPc_setIndex_advance (s : State) (w : Word) (n : Nat) :
    OnlyIndexAndPc s ((s.setIndex w).advance n) := by
  obtain ⟨_, hkept⟩ := OnlyRegsAndPc.refl s
  exact ⟨fun r => State.reg_setIndex s w r, hkept⟩

/-! ### What the instruction writes -/

theorem exec_ldIndex (nnn : Addr12) (s : State) :
    exec (.ldIndex nnn) s = .next ((s.setIndex (addrOperand nnn)).advance 2) := rfl

/-! ### The statement of the family -/

/-- Settles O22: the instruction is one write of I, with its 12-bit address zero-extended. -/
theorem loadIndexImmediate : Obligations.LoadIndexImmediate := fun nnn s =>
  ⟨decodeWord_encode (.ldIndex nnn), _, exec_ldIndex nnn s,
    addrOperand_toNat nnn, rfl, onlyIndexAndPc_setIndex_advance s _ 2⟩

end Sys2Proof.Machine
end

section
/-! PROOFS. Clearing the framebuffer (spec/44_display.md R130): the pixels after a display write, and the frame of an
instruction that writes FB, DRAWF and pc only. -/

namespace Sys2Proof.Machine

/-! ### Pixels after a display write and after pc moves -/

@[simp] theorem State.pixel_setDisplay (s : State) (fb : Framebuffer) (x : Fin 64) (y : Fin 32) :
    (s.setDisplay fb).pixel x y = fb.pixel x y := rfl

@[simp] theorem State.pixel_advance (s : State) (n : Nat) (x : Fin 64) (y : Fin 32) :
    (s.advance n).pixel x y = s.pixel x y := rfl

/-! ### The frame of FB, DRAWF and pc -/

/-- Everything but the pixels, DRAWF and pc. -/
def OnlyDisplayAndPc (s t : State) : Prop :=
  KeepsRegs s t ∧ KeepsIndex s t ∧ KeepsStack s t ∧ KeepsTimers s t ∧ KeepsMemory s t ∧ KeepsStatus s t ∧
    KeepsParams s t ∧ KeepsInput s t

/-- Every cell but the registers is in `OnlyRegsAndPc`; outside the display none of them reads FB, DRAWF or pc, so what holds
of the unchanged state holds here. -/
theorem onlyDisplayAndPc_setDisplay_advance (s : State) (fb : Framebuffer) (n : Nat) :
    OnlyDisplayAndPc s ((s.setDisplay fb).advance n) := by
  obtain ⟨hindex, hstack, htimers, hmem, _, hkept⟩ := OnlyRegsAndPc.refl s
  exact ⟨fun r => State.reg_setDisplay s fb r, hindex, hstack, htimers, hmem, hkept⟩

/-! ### What the instruction writes -/

theorem exec_cls (s : State) : exec .cls s = .next ((s.setDisplay Framebuffer.blank).advance 2) := rfl

theorem State.pixel_setDisplay_blank_advance (s : State) (n : Nat) (x : Fin 64) (y : Fin 32) :
    ((s.setDisplay Framebuffer.blank).advance n).pixel x y = false := by
  rw [State.pixel_advance, State.pixel_setDisplay, Framebuffer.pixel_blank]

/-! ### The statement of the family -/

/-- Settles O28: the instruction is one display write, of the blank framebuffer; that write sets DRAWF whatever FB was. -/
theorem clearBlanksTheFramebuffer : Obligations.ClearBlanksTheFramebuffer := fun s =>
  ⟨decodeWord_encode .cls, _, exec_cls s, State.pixel_setDisplay_blank_advance s 2, rfl, rfl,
    onlyDisplayAndPc_setDisplay_advance s Framebuffer.blank 2⟩

end Sys2Proof.Machine
end

section
/-! PROOFS. The timer registers (spec/45_timers_keys.md R140 to R142): the countdown over a run of Ticks, which gives the Tick that
signals (spec/60_exceptions.md R180, R181), and the frame of an instruction that writes one timer and pc only. -/

namespace Sys2Proof.Machine

/-! ### The countdown (spec/60_exceptions.md R180, R181) -/

/-- The clamp at 0 is the natural numbers' own. -/
theorem countDown_toNat (b : Byte) : (countDown b).toNat = b.toNat - 1 := by
  by_cases hb : b = 0
  · rw [hb]; rfl
  · have hpos : b.toNat ≠ 0 := fun h0 => hb (BitVec.eq_of_toNat_eq h0)
    have hle : (1 : Byte) ≤ b := Nat.one_le_iff_ne_zero.mpr hpos
    rw [countDown, if_neg hb]
    exact BitVec.toNat_sub_of_le hle

theorem State.iterate_tick_st_toNat (s : State) (n : Nat) : (Nat.iterate State.tick n s).st.toNat = s.st.toNat - n := by
  induction n with
  | zero => rfl
  | succ n ih => rw [Function.iterate_succ_apply', State.tick_st, countDown_toNat, ih, Nat.sub_sub]

theorem State.tick_sndp_iff (s : State) : s.tick.sndp = true ↔ s.st.toNat = 1 := by
  rw [State.tick_sndp, beq_iff_eq]
  exact BitVec.toNat_inj.symm

/-- The n-th Tick signals when ST is 1 before it, and by then n - 1 Ticks have counted ST down (R142, decision D19). -/
theorem State.iterate_tick_sndp_iff (s : State) {n : Nat} (hn : 0 < n) :
    (Nat.iterate State.tick n s).sndp = true ↔ n = s.st.toNat := by
  obtain ⟨m, rfl⟩ := Nat.exists_eq_add_one.mpr hn
  rw [Function.iterate_succ_apply', State.tick_sndp_iff, State.iterate_tick_st_toNat]
  omega

/-! ### The frame of a timer and pc -/

/-- Everything but the timers and pc. -/
def OnlyTimersAndPc (s t : State) : Prop :=
  KeepsRegs s t ∧ KeepsIndex s t ∧ KeepsStack s t ∧ KeepsMemory s t ∧ KeepsDisplay s t ∧ KeepsStatus s t ∧
    KeepsParams s t ∧ KeepsInput s t

theorem OnlyTimersAndPc.refl (s : State) : OnlyTimersAndPc s s := by
  obtain ⟨hindex, hstack, _, hkept⟩ := OnlyRegsAndPc.refl s
  exact ⟨fun _ => rfl, hindex, hstack, hkept⟩

theorem onlyTimersAndPc_setDT_advance (s : State) (b : Byte) (n : Nat) :
    OnlyTimersAndPc s ((s.setDT b).advance n) := OnlyTimersAndPc.refl s

theorem onlyTimersAndPc_setST_advance (s : State) (b : Byte) (n : Nat) :
    OnlyTimersAndPc s ((s.setST b).advance n) := OnlyTimersAndPc.refl s

/-! ### What the instructions write -/

theorem exec_ldGetDT (x : Nibble) (s : State) : exec (.ldGetDT x) s = .next ((s.setReg x s.dt).advance 2) := rfl

theorem exec_ldSetDT (x : Nibble) (s : State) : exec (.ldSetDT x) s = .next ((s.setDT (s.reg x)).advance 2) := rfl

theorem exec_ldSetST (x : Nibble) (s : State) : exec (.ldSetST x) s = .next ((s.setST (s.reg x)).advance 2) := rfl

/-! ### The statement of the family -/

/-- Settles O31: FX07 is one register write, FX15 and FX18 one timer write each; from the ST that FX18 leaves, the countdown
gives the Tick that signals. -/
theorem timerRegistersReadAndWritten : Obligations.TimerRegistersReadAndWritten := fun x s =>
  ⟨⟨decodeWord_encode (.ldGetDT x), _, exec_ldGetDT x s,
      fun r => State.reg_setReg s x r s.dt, rfl, onlyRegsAndPc_setReg_advance s x _ 2⟩,
    ⟨decodeWord_encode (.ldSetDT x), _, exec_ldSetDT x s, rfl, rfl, rfl, onlyTimersAndPc_setDT_advance s _ 2⟩,
    ⟨decodeWord_encode (.ldSetST x), _, exec_ldSetST x s, rfl, rfl, rfl,
      fun _ hn => State.iterate_tick_sndp_iff ((s.setST (s.reg x)).advance 2) hn, onlyTimersAndPc_setST_advance s _ 2⟩⟩

end Sys2Proof.Machine
end

section
/-! PROOFS. The host commands Load, SetKey and ConsumeRedraw (spec/46_host_commands.md R152, R153, R155, R156): what Load answers
and the bytes it leaves, and the key bits after one is written. -/

namespace Sys2Proof.Machine

/-! ### Load (R152, R153) -/

/-- Load within the capacity is one run of writes from 0x200 on, and nothing else. -/
theorem State.load_of_length_le {bs : List Byte} (s : State) (h : bs.length ≤ progMax) :
    s.load bs = .ok { s with mem := s.mem.writeAll s.cfg progBase bs } := if_pos h

theorem State.load_of_lt_length {bs : List Byte} (s : State) (h : progMax < bs.length) :
    s.load bs = .error .tooLong := if_neg (Nat.not_le.mpr h)

theorem perform_load_of_ok {s t : State} {bs : List Byte} (h : s.load bs = .ok t) :
    perform (.load bs) s = .next (t, .loaded none) := by
  rw [perform, h]

theorem perform_load_of_error {s : State} {bs : List Byte} {e : LoadError} (h : s.load bs = .error e) :
    perform (.load bs) s = .next (s, .loaded (some e)) := by
  rw [perform, h]

/-- Byte j of a stored run is read at a + j. -/
theorem State.byte_writeAll_add (s : State) (a : Nat) (bs : List Byte) (j : Nat) (h : j < bs.length) :
    ({ s with mem := s.mem.writeAll s.cfg a bs } : State).byte (a + j) = bs[j] := by
  have hin : a ≤ a + j ∧ a + j < a + bs.length := by omega
  rw [State.byte, Memory.read_writeAll, if_pos hin, Nat.add_sub_cancel_left, List.getD_eq_getElem _ _ h]

/-- Below and above a stored run every byte is as before. -/
theorem State.byte_writeAll_outside (s : State) (a : Nat) (bs : List Byte) (a' : Nat)
    (h : a' < a ∨ a + bs.length ≤ a') :
    ({ s with mem := s.mem.writeAll s.cfg a bs } : State).byte a' = s.byte a' := by
  have hout : ¬ (a ≤ a' ∧ a' < a + bs.length) := by omega
  rw [State.byte, Memory.read_writeAll, if_neg hout, State.byte]

/-! ### SetKey and ConsumeRedraw (R155, R156) -/

@[simp] theorem State.keyDown_setKeyBit (s : State) (k j : Nibble) (p : Bool) :
    (s.setKeyBit k p).keyDown j = if j = k then p else s.keyDown j := by
  rw [State.keyDown, State.keyDown]
  by_cases h : j = k
  · subst h; simp
  · have hne : k.toNat ≠ j.toNat := fun e => h (BitVec.eq_of_toNat_eq e.symm)
    simp [h, hne]

theorem perform_setKey (k : Nibble) (p : Bool) (s : State) :
    perform (.setKey k p) s = .next (s.setKeyBit k p, .done) := rfl

theorem perform_consumeRedraw (s : State) :
    perform .consumeRedraw s = .next ({ s with drawf := false }, .redraw s.drawf) := rfl

/-! ### The statements of the family -/

/-- Settles O53: the capacity decides between the run of writes, whose bytes and surroundings read back, and no change. -/
theorem loadWritesTheProgramOrNothing : Obligations.LoadWritesTheProgramOrNothing := fun bytes s =>
  ⟨fun hle => ⟨_, perform_load_of_ok (s.load_of_length_le hle),
      s.byte_writeAll_add progBase bytes, s.byte_writeAll_outside progBase bytes, rfl⟩,
    fun hlt => perform_load_of_error (s.load_of_lt_length hlt)⟩

/-- Settles O54: SetKey is one key-bit write, ConsumeRedraw one write of DRAWF with the old flag as its answer. -/
theorem setKeyAndConsumeRedraw : Obligations.SetKeyAndConsumeRedraw := fun s =>
  ⟨fun k p => ⟨_, perform_setKey k p s, fun j => State.keyDown_setKeyBit s k j p, rfl⟩, perform_consumeRedraw s⟩

end Sys2Proof.Machine
end

section
/-! PROOFS. The encoding (spec/30_encoding.md): the decoder and the encoder undo each other, the unknown words class by class,
and the opcode table beside the decoder. -/

namespace Sys2Proof.Machine

/-! ### Decoding what was encoded (R61, R62) -/

theorem decode_bytesOfWord_append (w : Word) (i : Instr) (rest : List Byte) (h : decodeWord w = some i) :
    decode (bytesOfWord w ++ rest) = .ok (i, rest) := by
  simp only [bytesOfWord, List.cons_append, List.nil_append, decode, wordOfBytes_bytes, h]

/-- Settles O1: the decoder undoes the encoder on words, and the two bytes of a word make that word again. -/
theorem decodeOfEncodeIsTheInstruction : Obligations.DecodeOfEncodeIsTheInstruction := fun i rest _ =>
  ⟨decodeWord_encode i, decode_bytesOfWord_append (encode i) i rest (decodeWord_encode i)⟩

/-! ### A field known by its number -/

theorem encNNN_of_fieldOP {w : Word} {op : Nibble} (h : (fieldOP w).toNat = op.toNat) :
    encNNN op (fieldNNN w) = w := by
  rw [← BitVec.eq_of_toNat_eq h, encNNN_fields]

theorem encXKK_of_fieldOP {w : Word} {op : Nibble} (h : (fieldOP w).toNat = op.toNat) :
    encXKK op (fieldX w) (fieldKK w) = w := by
  rw [← BitVec.eq_of_toNat_eq h, encXKK_fields]

theorem encXKK_of_fieldOP_fieldKK {w : Word} {op : Nibble} {kk : Byte} (h : (fieldOP w).toNat = op.toNat)
    (hk : (fieldKK w).toNat = kk.toNat) : encXKK op (fieldX w) kk = w := by
  rw [← BitVec.eq_of_toNat_eq hk, encXKK_of_fieldOP h]

theorem encXYN_of_fieldOP {w : Word} {op : Nibble} (h : (fieldOP w).toNat = op.toNat) :
    encXYN op (fieldX w) (fieldY w) (fieldN w) = w := by
  rw [← BitVec.eq_of_toNat_eq h, encXYN_fields]

theorem encXYN_of_fieldOP_fieldN {w : Word} {op n : Nibble} (h : (fieldOP w).toNat = op.toNat)
    (hn : (fieldN w).toNat = n.toNat) : encXYN op (fieldX w) (fieldY w) n = w := by
  rw [← BitVec.eq_of_toNat_eq hn, encXYN_of_fieldOP h]

/-! ### Encoding what was decoded, second level first -/

theorem encode_of_decodeClass0 {w : Word} {i : Instr} (h : decodeClass0 w = some i) : encode i = w := by
  unfold decodeClass0 at h
  split at h
  · next hw => cases h; exact hw.symm
  · split at h
    · next hw => cases h; exact hw.symm
    · cases h

theorem encode_of_decodeClass8 {w : Word} {i : Instr} (hop : (fieldOP w).toNat = 0x8)
    (h : decodeClass8 w = some i) : encode i = w := by
  unfold decodeClass8 at h
  split at h <;> cases h <;> exact encXYN_of_fieldOP_fieldN hop ‹_›

theorem encode_of_decodeClassE {w : Word} {i : Instr} (hop : (fieldOP w).toNat = 0xE)
    (h : decodeClassE w = some i) : encode i = w := by
  unfold decodeClassE at h
  split at h <;> cases h <;> exact encXKK_of_fieldOP_fieldKK hop ‹_›

theorem encode_of_decodeClassF {w : Word} {i : Instr} (hop : (fieldOP w).toNat = 0xF)
    (h : decodeClassF w = some i) : encode i = w := by
  unfold decodeClassF at h
  split at h <;> cases h <;> exact encXKK_of_fieldOP_fieldKK hop ‹_›

theorem encode_of_decodeWord {w : Word} {i : Instr} (h : decodeWord w = some i) : encode i = w := by
  unfold decodeWord at h
  split at h
  case h_1 => exact encode_of_decodeClass0 h
  case h_9 hop => exact encode_of_decodeClass8 hop h
  case h_15 hop => exact encode_of_decodeClassE hop h
  case h_16 hop => exact encode_of_decodeClassF hop h
  case h_6 hop | h_10 hop =>
    split at h
    · next hn => cases h; exact encXYN_of_fieldOP_fieldN hop (congrArg BitVec.toNat hn)
    · cases h
  case h_14 hop => cases h; exact encXYN_of_fieldOP hop
  case h_2 hop | h_3 hop | h_11 hop | h_12 hop => cases h; exact encNNN_of_fieldOP hop
  case h_4 hop | h_5 hop | h_7 hop | h_8 hop | h_13 hop => cases h; exact encXKK_of_fieldOP hop
  case h_17 => cases h

/-- Settles O2: each class keeps every field of the word in an operand or fixes it. -/
theorem encodeOfDecodeIsTheWord : Obligations.EncodeOfDecodeIsTheWord := fun _ _ h => encode_of_decodeWord h

/-! ### Unknown words, second level first (R66, R68) -/

theorem decodeClass0_eq_none_iff (w : Word) : decodeClass0 w = none ↔ w ≠ 0x00E0 ∧ w ≠ 0x00EE := by
  by_cases hcls : w = 0x00E0#16 <;> by_cases hret : w = 0x00EE#16 <;> simp [decodeClass0, hcls, hret]

theorem decodeClass8_eq_none_iff (w : Word) :
    decodeClass8 w = none ↔ fieldN w ∈ [0x8, 0x9, 0xA, 0xB, 0xC, 0xD, 0xF] := by
  unfold decodeClass8
  split
  case h_10 =>
    have hlt : (fieldN w).toNat < 16 := (fieldN w).isLt
    simp only [imp_false] at *
    simp only [true_iff, List.mem_cons, List.not_mem_nil, ← BitVec.toNat_inj, BitVec.ofNat_eq_ofNat,
      BitVec.reduceToNat]
    omega
  all_goals simp [← BitVec.toNat_inj, *]

theorem decodeClassE_eq_none_iff (w : Word) : decodeClassE w = none ↔ fieldKK w ∉ [0x9E, 0xA1] := by
  unfold decodeClassE
  split <;> simp_all [← BitVec.toNat_inj]

theorem decodeClassF_eq_none_iff (w : Word) :
    decodeClassF w = none ↔ fieldKK w ∉ [0x07, 0x0A, 0x15, 0x18, 0x1E, 0x29, 0x33, 0x55, 0x65] := by
  unfold decodeClassF
  split <;> simp_all [← BitVec.toNat_inj]

/-- Settles O5: the class decides which second-level selector, if any, can leave the word unknown. -/
theorem unknownWordsByClass : Obligations.UnknownWordsByClass := by
  intro w
  unfold decodeWord
  split
  case h_1 hop => simp [decodeClass0_eq_none_iff, ← BitVec.toNat_inj, hop]
  case h_9 hop => simp [decodeClass8_eq_none_iff, ← BitVec.toNat_inj, hop]
  case h_15 hop => simp [decodeClassE_eq_none_iff, ← BitVec.toNat_inj, hop]
  case h_16 hop => simp [decodeClassF_eq_none_iff, ← BitVec.toNat_inj, hop]
  case h_6 hop | h_10 hop => simp [← BitVec.toNat_inj, hop]
  case h_17 =>
    have hlt : (fieldOP w).toNat < 16 := (fieldOP w).isLt
    simp only [imp_false] at *
    omega
  all_goals next hop => simp [← BitVec.toNat_inj, hop]

/-! ### The opcode table (R64, R65) -/

/-- Rows that match one word agree on the bits both compare. -/
theorem OpcodeRow.code_and_mask_eq {r q : OpcodeRow} {w : Word} (hr : r.covers w = true) (hq : q.covers w = true) :
    r.code &&& q.mask = q.code &&& r.mask := by
  rw [OpcodeRow.covers, beq_iff_eq] at hr hq
  rw [← hr, ← hq, BitVec.and_assoc, BitVec.and_assoc, BitVec.and_comm r.mask]

theorem opcodeRow_eq_of_code_and_mask_eq :
    ∀ r ∈ opcodeTable, ∀ q ∈ opcodeTable, r.code &&& q.mask = q.code &&& r.mask → r = q := by decide

theorem opcodeRow_eq_of_mnemonic_eq :
    ∀ r ∈ opcodeTable, ∀ q ∈ opcodeTable, r.mnemonic = q.mnemonic → r = q := by decide

/-- Settles O3: two different rows differ on a bit both compare. -/
theorem noWordMatchesTwoRows : Obligations.NoWordMatchesTwoRows :=
  ⟨rfl, fun _ r hr q hq hrw hqw =>
    opcodeRow_eq_of_code_and_mask_eq r hr q hq (OpcodeRow.code_and_mask_eq hrw hqw)⟩

/-- Every instruction's word matches the row of its name. -/
theorem tableRow_statement (i : Instr) : Laws.TableRow.Statement i := by
  open Laws.TableRow in
  cases i
  exacts [cls, ret, jp _, call _, seI _ _, sneI _ _, seR _ _, ldI _ _, addI _ _, ldR _ _, orR _ _, andR _ _, xorR _ _,
    addR _ _, sub _ _, shr _ _, subn _ _, shl _ _, sneR _ _, ldIndex _, jpV0 _, rnd _ _, drw _ _ _, skp _, sknp _,
    ldGetDT _, ldKey _, ldSetDT _, ldSetST _, addIndex _, ldFont _, ldBcd _, ldStore _, ldLoad _]

/-- Row by row, the table compares the selector its class dispatches on, with a value the class lists (R66). -/
theorem opcodeTable_selectors : ∀ r ∈ opcodeTable, fieldOP r.mask = 0xF ∧
    (fieldOP r.code = 0x0 → r.mask = 0xFFFF ∧ (r.code = 0x00E0 ∨ r.code = 0x00EE)) ∧
    (fieldOP r.code = 0x5 ∨ fieldOP r.code = 0x9 → fieldN r.mask = 0xF ∧ fieldN r.code = 0x0) ∧
    (fieldOP r.code = 0x8 → fieldN r.mask = 0xF ∧ fieldN r.code ∉ [0x8, 0x9, 0xA, 0xB, 0xC, 0xD, 0xF]) ∧
    (fieldOP r.code = 0xE → fieldKK r.mask = 0xFF ∧ fieldKK r.code ∈ [0x9E, 0xA1]) ∧
    (fieldOP r.code = 0xF → fieldKK r.mask = 0xFF ∧
      fieldKK r.code ∈ [0x07, 0x0A, 0x15, 0x18, 0x1E, 0x29, 0x33, 0x55, 0x65]) := by decide

/-- A field that a row's mask covers whole holds the row's value in every word the row matches. -/
theorem OpcodeRow.extract_eq_of_covers {r : OpcodeRow} {w : Word} (h : r.covers w = true) (a n : Nat)
    (hm : r.mask.extractLsb' a n = BitVec.allOnes n) : w.extractLsb' a n = r.code.extractLsb' a n := by
  rw [OpcodeRow.covers, beq_iff_eq] at h
  rw [← h, BitVec.extractLsb'_and, hm, BitVec.and_allOnes]

theorem decodeWord_ne_none_of_covers {r : OpcodeRow} (hr : r ∈ opcodeTable) {w : Word} (h : r.covers w = true) :
    decodeWord w ≠ none := by
  obtain ⟨hmask, h0, h59, h8, hE, hF⟩ := opcodeTable_selectors r hr
  have hop : fieldOP w = fieldOP r.code := OpcodeRow.extract_eq_of_covers h 12 4 hmask
  have hn (hm : fieldN r.mask = 0xF) : fieldN w = fieldN r.code := OpcodeRow.extract_eq_of_covers h 0 4 hm
  have hkk (hm : fieldKK r.mask = 0xFF) : fieldKK w = fieldKK r.code := OpcodeRow.extract_eq_of_covers h 0 8 hm
  rw [Ne, unknownWordsByClass w, hop]
  rintro (⟨hc, hne, hne'⟩ | ⟨hc, hne⟩ | ⟨hc, hmem⟩ | ⟨hc, hne⟩ | ⟨hc, hmem⟩ | ⟨hc, hmem⟩)
  · obtain ⟨hm, hcode⟩ := h0 hc
    rw [OpcodeRow.covers, hm, beq_iff_eq] at h
    have hw : w = r.code := (BitVec.and_allOnes).symm.trans h
    exact hcode.elim (fun hcls => hne (hw.trans hcls)) (fun hret => hne' (hw.trans hret))
  · obtain ⟨hm, hcode⟩ := h59 (.inl hc)
    exact hne ((hn hm).trans hcode)
  · obtain ⟨hm, hcode⟩ := h8 hc
    exact hcode (hn hm ▸ hmem)
  · obtain ⟨hm, hcode⟩ := h59 (.inr hc)
    exact hne ((hn hm).trans hcode)
  · obtain ⟨hm, hcode⟩ := hE hc
    exact hmem (hkk hm ▸ hcode)
  · obtain ⟨hm, hcode⟩ := hF hc
    exact hmem (hkk hm ▸ hcode)

theorem exists_row_of_decodeWord {w : Word} {i : Instr} (h : decodeWord w = some i) :
    ∃ q ∈ opcodeTable, q.mnemonic = i.mnemonic ∧ q.covers w = true := by
  have hrow := tableRow_statement i
  rwa [Laws.TableRow.Statement, encode_of_decodeWord h] at hrow

/-- Settles O4: a matched word decodes, and what it decodes to has the only row that matches. -/
theorem decoderAgreesWithOpcodeTable : Obligations.DecoderAgreesWithOpcodeTable := by
  intro w r hr
  constructor
  · intro hrw
    obtain ⟨i, hd⟩ := Option.ne_none_iff_exists'.mp (decodeWord_ne_none_of_covers hr hrw)
    obtain ⟨q, hq, hname, hqw⟩ := exists_row_of_decodeWord hd
    exact ⟨i, hd, by rw [noWordMatchesTwoRows.2 w r hr q hq hrw hqw, hname]⟩
  · rintro ⟨i, hd, hname⟩
    obtain ⟨q, hq, hname', hqw⟩ := exists_row_of_decodeWord hd
    rwa [opcodeRow_eq_of_mnemonic_eq r hr q hq (hname.symm.trans hname'.symm)]

/-- Settles O6: each word is the decoder's own computation. -/
theorem workedEncodingsDecode : Obligations.WorkedEncodingsDecode := ⟨rfl, rfl, rfl, rfl, rfl, rfl, rfl, rfl⟩

end Sys2Proof.Machine
end

section
/-! PROOFS. Call and return (spec/41_control_flow.md section 1): the frame of an instruction that writes the stack and pc only,
and the two outcomes of each. -/

namespace Sys2Proof.Machine

/-! ### The frame of the stack and pc -/

/-- Everything but SP, the stack cells and pc. -/
def OnlyStackAndPc (s t : State) : Prop :=
  KeepsRegs s t ∧ KeepsIndex s t ∧ KeepsTimers s t ∧ KeepsMemory s t ∧ KeepsDisplay s t ∧ KeepsStatus s t ∧
    KeepsParams s t ∧ KeepsInput s t

/-- No cell of the frame reads the stack or pc, so what holds of the unchanged state holds here. -/
theorem onlyStackAndPc_setPc (s : State) (sp : Fin 17) (stack : Vector Word 16) (w : Word) :
    OnlyStackAndPc s ({ s with sp := sp, stack := stack }.setPc w) := by
  obtain ⟨hindex, _, hkept⟩ := OnlyRegsAndPc.refl s
  exact ⟨fun _ => rfl, hindex, hkept⟩

/-! ### What the instructions do -/

theorem exec_call_of_lt (nnn : Addr12) {s : State} (h : s.sp.val < 16) :
    ∃ sp stack, exec (.call nnn) s = .next ({ s with sp := sp, stack := stack }.setPc (addrOperand nnn)) ∧
      sp.val = s.sp.val + 1 ∧
      ∀ j, ({ s with sp := sp, stack := stack } : State).stackAt j = if j = s.sp.val then s.pc else s.stackAt j := by
  obtain ⟨hfull, _⟩ | ⟨t, hpush, _, hsp, hstack, ht⟩ := s.push_cases s.pc
  · omega
  · refine ⟨t.sp, t.stack, ?_, hsp, fun j => ?_⟩
    · rw [← ht, exec, execCall, hpush]
    · rw [← ht, hstack]

theorem exec_call_of_full (nnn : Addr12) {s : State} (h : s.sp.val = 16) :
    exec (.call nnn) s = .next (s.raise .stackOverflow) := by
  obtain ⟨_, hpush⟩ | ⟨_, _, hlt, _⟩ := s.push_cases s.pc
  · rw [exec, execCall, hpush]
  · omega

theorem exec_ret_of_pos {s : State} (h : 0 < s.sp.val) :
    ∃ sp, exec .ret s = .next ({ s with sp := sp }.setPc (s.stackAt (s.sp.val - 1) + 2)) ∧ sp.val = s.sp.val - 1 := by
  obtain ⟨hempty, _⟩ | ⟨t, hpop, _, hsp, ht⟩ := s.pop_cases
  · omega
  · refine ⟨t.sp, ?_, hsp⟩
    rw [← ht, exec, execRet, hpop]

theorem exec_ret_of_empty {s : State} (h : s.sp.val = 0) : exec .ret s = .next (s.raise .stackUnderflow) := by
  obtain ⟨_, hpop⟩ | ⟨_, _, hpos, _⟩ := s.pop_cases
  · rw [exec, execRet, hpop]
  · omega

/-! ### The statements of the family -/

/-- Settles O11: below 16 entries the push answers, at 16 it does not and the fault is the whole effect. -/
theorem callPushesItsOwnAddress : Obligations.CallPushesItsOwnAddress := by
  refine fun nnn s => ⟨decodeWord_encode (.call nnn), fun hlt => ?_, exec_call_of_full nnn, rfl⟩
  obtain ⟨sp, stack, hexec, hsp, hstack⟩ := exec_call_of_lt nnn hlt
  exact ⟨_, hexec, hsp, hstack, addrOperand_toNat nnn, onlyStackAndPc_setPc s sp stack _⟩

/-- Settles O12: with an entry the pop answers, with none it does not and the fault is the whole effect. -/
theorem returnGoesPastTheCall : Obligations.ReturnGoesPastTheCall := by
  refine fun s => ⟨decodeWord_encode .ret, fun hpos => ?_, exec_ret_of_empty, rfl⟩
  obtain ⟨sp, hexec, hsp⟩ := exec_ret_of_pos hpos
  exact ⟨_, hexec, hsp, fun _ => rfl, rfl, onlyStackAndPc_setPc s sp s.stack _⟩

/-- Settles O13: the entry the return pops is the one the call pushed. -/
theorem returnUndoesCall : Obligations.ReturnUndoesCall := by
  intro nnn s hlt
  obtain ⟨_, hcall, _⟩ := callPushesItsOwnAddress nnn s
  obtain ⟨t, ht, hsp, hstack, _, hregs, _, _, hmem, _⟩ := hcall hlt
  obtain ⟨_, hret, _⟩ := returnGoesPastTheCall t
  obtain ⟨u, hu, hsp', hstack', hpc, hregs', _, _, hmem', _⟩ := hret (by omega)
  have hsp_back : u.sp.val = s.sp.val := by omega
  refine ⟨t, u, ht, hu, ?_, Fin.ext hsp_back, fun j hj => ?_, fun r => (hregs' r).trans (hregs r),
    fun a => (hmem' a).trans (hmem a)⟩
  · rw [hpc, hstack, if_pos (by omega)]
  · rw [hstack', hstack, if_neg (by omega)]

end Sys2Proof.Machine
end

section
/-! PROOFS. Logic, shifts and the random byte (spec/42_alu.md sections 3 and 4): results bit by bit and as integers, in the
frame of register writes. -/

namespace Sys2Proof.Machine

/-! ### Results and flags of the shifts as integers (R110, R112) -/

theorem halfByte_toNat (b : Byte) : (halfByte b).toNat = b.toNat / 2 := by
  have hb : b.toNat < 256 := b.isLt
  exact (BitVec.toNat_ofNat _ _).trans (Nat.mod_eq_of_lt (by omega))

theorem doubleByte_toNat (b : Byte) : (doubleByte b).toNat = b.toNat * 2 % 256 := BitVec.toNat_ofNat _ _

theorem lowBit_toNat (b : Byte) : (if lowBit b then 1 else 0) = b.toNat % 2 := by
  have hbit : lowBit b = decide (b.toNat % 2 = 1) := by
    rw [lowBit, BitVec.getLsbD, Nat.testBit_zero]
  rw [hbit]
  simp only [decide_eq_true_eq]
  split <;> omega

theorem highBit_toNat (b : Byte) : (if highBit b then 1 else 0) = b.toNat / 128 := by
  have hb : b.toNat < 256 := b.isLt
  have hbit : highBit b = decide (b.toNat / 128 % 2 = 1) := by
    rw [highBit, BitVec.getLsbD, Nat.testBit_eq_decide_div_mod_eq]
  rw [hbit]
  simp only [decide_eq_true_eq]
  split <;> omega

theorem shiftOperand_eq (s : State) (x y : Nibble) :
    shiftOperand s x y = if s.cfg.shiftSrc = .vx then s.reg x else s.reg y := by
  cases h : s.cfg.shiftSrc <;> simp [shiftOperand, h]

/-! ### What the register writes leave -/

theorem State.getLsbD_reg_setReg (s : State) (x r : Nibble) (b : Byte) (k : Nat) :
    ((s.setReg x b).reg r).getLsbD k = if r = x then b.getLsbD k else (s.reg r).getLsbD k := by
  rw [State.reg_setReg, apply_ite (BitVec.getLsbD · k)]

theorem State.toNat_reg_setRegFlag_half (s : State) (x r : Nibble) (b : Byte) :
    ((s.setRegFlag x (halfByte b) (lowBit b)).reg r).toNat =
      if r = regF then b.toNat % 2 else if r = x then b.toNat / 2 else (s.reg r).toNat := by
  rw [State.toNat_reg_setRegFlag, halfByte_toNat, lowBit_toNat]

theorem State.toNat_reg_setRegFlag_double (s : State) (x r : Nibble) (b : Byte) :
    ((s.setRegFlag x (doubleByte b) (highBit b)).reg r).toNat =
      if r = regF then b.toNat / 128 else if r = x then b.toNat * 2 % 256 else (s.reg r).toNat := by
  rw [State.toNat_reg_setRegFlag, doubleByte_toNat, highBit_toNat]

theorem toNat_and_le_right (a b : Byte) : (a &&& b).toNat ≤ b.toNat := by
  rw [BitVec.toNat_and]
  exact Nat.and_le_right

/-! ### What the instructions write -/

theorem exec_orR (x y : Nibble) (s : State) :
    exec (.orR x y) s = .next ((s.setReg x (s.reg x ||| s.reg y)).advance 2) := rfl

theorem exec_andR (x y : Nibble) (s : State) :
    exec (.andR x y) s = .next ((s.setReg x (s.reg x &&& s.reg y)).advance 2) := rfl

theorem exec_xorR (x y : Nibble) (s : State) :
    exec (.xorR x y) s = .next ((s.setReg x (s.reg x ^^^ s.reg y)).advance 2) := rfl

theorem exec_shr (x y : Nibble) (s : State) :
    exec (.shr x y) s =
      .next ((s.setRegFlag x (halfByte (shiftOperand s x y)) (lowBit (shiftOperand s x y))).advance 2) := rfl

theorem exec_shl (x y : Nibble) (s : State) :
    exec (.shl x y) s =
      .next ((s.setRegFlag x (doubleByte (shiftOperand s x y)) (highBit (shiftOperand s x y))).advance 2) := rfl

theorem exec_rnd (x : Nibble) (kk : Byte) (s : State) :
    exec (.rnd x kk) s = .next ((s.setReg x (s.rndByte &&& kk)).takeRnd.advance 2) := rfl

/-! ### The statements of the family -/

/-- Settles O19: each shift writes result and flag of one source in the VF-last order. -/
theorem shiftsMoveOneBitIntoVF : Obligations.ShiftsMoveOneBitIntoVF := by
  intro x y s
  rw [← shiftOperand_eq]
  exact ⟨⟨decodeWord_encode (.shr x y), _, exec_shr x y s,
      fun r => State.toNat_reg_setRegFlag_half s x r _, rfl, onlyRegsAndPc_setRegFlag_advance s x _ _ 2⟩,
    ⟨decodeWord_encode (.shl x y), _, exec_shl x y s,
      fun r => State.toNat_reg_setRegFlag_double s x r _, rfl, onlyRegsAndPc_setRegFlag_advance s x _ _ 2⟩⟩

/-- Settles O16: each instruction is one register write, and no flag write. -/
theorem logicIsBitwiseAndKeepsVF : Obligations.LogicIsBitwiseAndKeepsVF := by
  refine fun x y s =>
    ⟨⟨decodeWord_encode (.orR x y), _, exec_orR x y s, fun r b => ?_, rfl, onlyRegsAndPc_setReg_advance s x _ 2⟩,
      ⟨decodeWord_encode (.andR x y), _, exec_andR x y s, fun r b => ?_, rfl, onlyRegsAndPc_setReg_advance s x _ 2⟩,
      ⟨decodeWord_encode (.xorR x y), _, exec_xorR x y s, fun r b => ?_, rfl, onlyRegsAndPc_setReg_advance s x _ 2⟩⟩
  · rw [State.reg_advance, State.getLsbD_reg_setReg, BitVec.getLsbD_or]
  · rw [State.reg_advance, State.getLsbD_reg_setReg, BitVec.getLsbD_and]
  · rw [State.reg_advance, State.getLsbD_reg_setReg, BitVec.getLsbD_xor]

/-- Settles O20: one register write of the masked byte; the frame is that of the unchanged state. -/
theorem randomByteIsMasked : Obligations.RandomByteIsMasked := by
  intro x kk s
  have hregs (r : Nibble) := State.reg_setReg s x r (s.rndByte &&& kk)
  obtain ⟨hindex, hstack, htimers, hmem, hdisplay, hstatus, hparams, _⟩ := OnlyRegsAndPc.refl s
  refine ⟨decodeWord_encode (.rnd x kk), fun b hb => by rw [State.rndByte, hb, Option.getD_some], _, exec_rnd x kk s,
    hregs, ?_, rfl, hindex, hstack, htimers, hmem, hdisplay, hstatus, hparams, rfl, rfl⟩
  rw [State.reg_advance, State.reg_takeRnd, hregs, if_pos rfl]
  exact toNat_and_le_right s.rndByte kk

end Sys2Proof.Machine
end

section
/-! PROOFS. Index arithmetic and the key instructions (spec/43_index_memory.md section 1; spec/45_timers_keys.md sections 2
and 3). -/

namespace Sys2Proof.Machine

/-! ### Operands and results as integers -/

theorem indexSum_toNat (i : Word) (b : Byte) : (indexSum i b).toNat = (i.toNat + b.toNat) % 65536 :=
  BitVec.toNat_ofNat _ _

theorem lowDigit_toNat (b : Byte) : (lowDigit b).toNat = b.toNat % 16 := BitVec.toNat_setWidth _ _

theorem lowDigit_eq_ofNat (b : Byte) : lowDigit b = BitVec.ofNat 4 (b.toNat % 16) := by
  rw [← lowDigit_toNat, BitVec.ofNat_toNat, BitVec.setWidth_eq]

/-- FONT_BASE is at most 432, so 16 bits hold the address of every glyph. -/
theorem glyphAddr_toNat (c : Config) (d : Nibble) : (glyphAddr c d).toNat = c.fontBase.val + 5 * d.toNat := by
  have hbase : c.fontBase.val < 433 := c.fontBase.isLt
  have hd : d.toNat < 16 := d.isLt
  exact (BitVec.toNat_ofNat _ _).trans (Nat.mod_eq_of_lt (by omega))

/-! ### What the instructions do -/

theorem exec_addIndex (x : Nibble) (s : State) :
    exec (.addIndex x) s =
      .next (((s.setIndex (indexSum s.i (s.reg x))).setReg regF (flagByte (indexOut s.i (s.reg x)))).advance 2) := rfl

theorem exec_ldFont (x : Nibble) (s : State) :
    exec (.ldFont x) s = .next ((s.setIndex (glyphAddr s.cfg (lowDigit (s.reg x)))).advance 2) := rfl

theorem exec_skp (x : Nibble) (s : State) :
    exec (.skp x) s = .next (s.setPc (if s.keyDown (lowDigit (s.reg x)) = true then s.pc + 4 else s.pc + 2)) := by
  rw [exec, execSkp, skipIf_eq_setPc]

theorem exec_sknp (x : Nibble) (s : State) :
    exec (.sknp x) s = .next (s.setPc (if s.keyDown (lowDigit (s.reg x)) = false then s.pc + 4 else s.pc + 2)) := by
  simp only [exec, execSknp, skipIf_eq_setPc, Bool.not_eq_true']

theorem exec_ldKey_of_some (x : Nibble) {s : State} {k : Nibble} (h : s.firstKey = some k) :
    exec (.ldKey x) s = .next ((s.setReg x (k.setWidth 8)).advance 2) := by
  rw [exec, execLdKey, h]

theorem exec_ldKey_of_none (x : Nibble) {s : State} (h : s.firstKey = none) : exec (.ldKey x) s = .next s := by
  rw [exec, execLdKey, h]

/-! ### The statements of the family -/

/-- Settles O23: I and VF are written from the values before, and no other register is. -/
theorem addToIndexFlagsRange : Obligations.AddToIndexFlagsRange := by
  intro x s
  obtain ⟨_, hkept⟩ := OnlyRegsAndPc.refl s
  refine ⟨decodeWord_encode (.addIndex x), _, exec_addIndex x s, indexSum_toNat s.i (s.reg x), fun r => ?_, rfl, hkept⟩
  rw [State.reg_advance, State.reg_setReg, State.reg_setIndex, apply_ite BitVec.toNat, flagByte_toNat, indexOut]
  simp only [decide_eq_true_eq]

/-- Settles O24: the instruction is one write of I, with an address that 16 bits hold. -/
theorem pointIndexAtGlyph : Obligations.PointIndexAtGlyph := by
  intro x s
  have hbase : s.cfg.fontBase.val < 433 := s.cfg.fontBase.isLt
  have haddr : (glyphAddr s.cfg (lowDigit (s.reg x))).toNat = s.cfg.fontBase.val + 5 * ((s.reg x).toNat % 16) := by
    rw [glyphAddr_toNat, lowDigit_toNat]
  exact ⟨decodeWord_encode (.ldFont x), _, exec_ldFont x s, haddr, haddr.trans_le (by omega), rfl,
    onlyIndexAndPc_setIndex_advance s _ 2⟩

/-- Settles O32: each skip writes pc alone, with the value of the key bit. -/
theorem skipOnKey : Obligations.SkipOnKey := by
  intro x s
  rw [← lowDigit_eq_ofNat]
  exact ⟨⟨decodeWord_encode (.skp x), _, exec_skp x s, rfl, onlyPc_setPc s _⟩,
    ⟨decodeWord_encode (.sknp x), _, exec_sknp x s, rfl, onlyPc_setPc s _⟩⟩

/-- Settles O33: the key found is the smallest pressed one, and its index is one register write. -/
theorem keyReadStoresSmallestKey : Obligations.KeyReadStoresSmallestKey := by
  intro x k s hdown hleast
  have hkey : s.firstKey = some k := (s.firstKey_eq_some k).mpr ⟨hdown, hleast⟩
  refine ⟨_, exec_ldKey_of_some x hkey, fun r => ?_, rfl, onlyRegsAndPc_setReg_advance s x _ 2⟩
  rw [State.reg_advance, State.reg_setReg, apply_ite BitVec.toNat, BitVec.toNat_setWidth_of_le (by decide)]

end Sys2Proof.Machine
end

section
/-! PROOFS. The memory transfers FX33, FX55 and FX65 (spec/43_index_memory.md section 2): in range the run of bytes, out of range
the fault, and nothing between (spec/20_memory.md R44). -/

namespace Sys2Proof.Machine

/-! ### A run of bytes in memory, or not -/

theorem State.storeBytes_of_le {s : State} {a : Nat} {bs : List Byte} (h : a + bs.length ≤ memSize) :
    s.storeBytes a bs = some { s with mem := s.mem.writeAll s.cfg a bs } := by
  rw [State.storeBytes_eq, if_pos (.inr h)]

theorem State.storeBytes_of_lt {s : State} {a : Nat} {bs : List Byte} (hpos : 0 < bs.length)
    (h : memSize < a + bs.length) : s.storeBytes a bs = none := by
  rw [State.storeBytes_eq, if_neg (by omega)]

theorem State.loadBytes_of_le {s : State} {a n : Nat} (h : n = 0 ∨ a + n ≤ memSize) :
    s.loadBytes a n = some ((List.range n).map fun j => s.byte (a + j)) := by
  rw [State.loadBytes_eq, if_pos h]

theorem State.loadBytes_of_lt {s : State} {a n : Nat} (hpos : 0 < n) (h : memSize < a + n) :
    s.loadBytes a n = none := by
  rw [State.loadBytes_eq, if_neg (by omega)]

/-! ### The operands -/

@[simp] theorem regBlock_length (s : State) (x : Nibble) : (regBlock s x).length = x.toNat + 1 := by
  simp [regBlock]

theorem regBlock_getD (s : State) {x : Nibble} {j : Nat} (h : j ≤ x.toNat) :
    (regBlock s x).getD j 0 = s.reg (BitVec.ofNat 4 j) := by
  have hj : j < (regBlock s x).length := by rw [regBlock_length]; omega
  rw [List.getD_eq_getElem _ _ hj]
  simp [regBlock]

theorem decimalDigits_length (b : Byte) : (decimalDigits b).length = 3 := rfl

theorem toNat_ofNat_byte {n : Nat} (h : n < 256) : (BitVec.ofNat 8 n).toNat = n :=
  (BitVec.toNat_ofNat _ _).trans (Nat.mod_eq_of_lt h)

/-! ### What the instructions do -/

theorem exec_ldBcd_of_le (x : Nibble) {s : State} (h : s.indexAddr + 2 ≤ 0xFFF) :
    exec (.ldBcd x) s =
      .next ({ s with mem := s.mem.writeAll s.cfg s.indexAddr (decimalDigits (s.reg x)) }.advance 2) := by
  have hin : s.indexAddr + (decimalDigits (s.reg x)).length ≤ memSize := by
    rw [decimalDigits_length]; simp only [memSize]; omega
  rw [exec, execLdBcd, State.storeBytes_of_le hin]

theorem exec_ldBcd_of_lt (x : Nibble) {s : State} (h : 0xFFF < s.indexAddr + 2) :
    exec (.ldBcd x) s = .next (s.raise .addressFault) := by
  have hout : memSize < s.indexAddr + (decimalDigits (s.reg x)).length := by
    rw [decimalDigits_length]; simp only [memSize]; omega
  rw [exec, execLdBcd, State.storeBytes_of_lt (by rw [decimalDigits_length]; omega) hout]

theorem exec_ldStore_of_le {x : Nibble} {s : State} (h : s.indexAddr + x.toNat ≤ 0xFFF) :
    exec (.ldStore x) s = .next ({ s with mem := s.mem.writeAll s.cfg s.indexAddr (regBlock s x) }.advance 2) := by
  have hin : s.indexAddr + (regBlock s x).length ≤ memSize := by rw [regBlock_length]; simp only [memSize]; omega
  rw [exec, execLdStore, State.storeBytes_of_le hin]

theorem exec_ldStore_of_lt {x : Nibble} {s : State} (h : 0xFFF < s.indexAddr + x.toNat) :
    exec (.ldStore x) s = .next (s.raise .addressFault) := by
  have hout : memSize < s.indexAddr + (regBlock s x).length := by rw [regBlock_length]; simp only [memSize]; omega
  rw [exec, execLdStore, State.storeBytes_of_lt (by rw [regBlock_length]; omega) hout]

theorem exec_ldLoad_of_le {x : Nibble} {s : State} (h : s.indexAddr + x.toNat ≤ 0xFFF) :
    exec (.ldLoad x) s =
      .next ((s.loadRegs 0 ((List.range (x.toNat + 1)).map fun j => s.byte (s.indexAddr + j))).advance 2) := by
  have hin : s.indexAddr + (x.toNat + 1) ≤ memSize := by simp only [memSize]; omega
  rw [exec, execLdLoad, State.loadBytes_of_le (.inr hin)]

theorem exec_ldLoad_of_lt {x : Nibble} {s : State} (h : 0xFFF < s.indexAddr + x.toNat) :
    exec (.ldLoad x) s = .next (s.raise .addressFault) := by
  have hout : memSize < s.indexAddr + (x.toNat + 1) := by simp only [memSize]; omega
  rw [exec, execLdLoad, State.loadBytes_of_lt (Nat.succ_pos _) hout]

/-! ### What a stored block and a loaded block leave -/

/-- Everything but memory and pc. -/
def OnlyMemoryAndPc (s t : State) : Prop :=
  KeepsRegs s t ∧ KeepsIndex s t ∧ KeepsStack s t ∧ KeepsTimers s t ∧ KeepsDisplay s t ∧ KeepsStatus s t ∧
    KeepsParams s t ∧ KeepsInput s t

/-- No cell of the frame reads memory or pc, so what holds of the unchanged state holds here. -/
theorem onlyMemoryAndPc_advance (s : State) (m : Memory) (n : Nat) :
    OnlyMemoryAndPc s ({ s with mem := m }.advance n) := by
  obtain ⟨hindex, hstack, htimers, _, hkept⟩ := OnlyRegsAndPc.refl s
  exact ⟨fun _ => rfl, hindex, hstack, htimers, hkept⟩

theorem State.byte_writeAll_regBlock (s : State) (x : Nibble) (a a' : Nat) :
    ({ s with mem := s.mem.writeAll s.cfg a (regBlock s x) } : State).byte a' =
      if a ≤ a' ∧ a' ≤ a + x.toNat then s.reg (BitVec.ofNat 4 (a' - a)) else s.byte a' := by
  rw [State.byte, Memory.read_writeAll, regBlock_length]
  by_cases hin : a ≤ a' ∧ a' ≤ a + x.toNat
  · rw [if_pos hin, if_pos (by omega), regBlock_getD s (by omega)]
  · rw [if_neg hin, if_neg (by omega), State.byte]

theorem State.reg_loadRegs_range (s : State) (x : Nibble) (f : Nat → Byte) (r : Nibble) :
    (s.loadRegs 0 ((List.range (x.toNat + 1)).map f)).reg r = if r.toNat ≤ x.toNat then f r.toNat else s.reg r := by
  have hx : x.toNat < 16 := x.isLt
  rw [State.loadRegs_reg _ _ _ _ (by simp; omega)]
  by_cases hr : r.toNat ≤ x.toNat
  · have hlt : r.toNat < x.toNat + 1 := by omega
    simp [hr, hlt]
  · have hge : ¬ r.toNat < x.toNat + 1 := by omega
    simp [hr, hge]

theorem State.loadRegs_pc (s : State) (j : Nat) (bs : List Byte) : (s.loadRegs j bs).pc = s.pc := by
  rw [State.loadRegs_eq]

theorem onlyRegsAndPc_loadRegs_advance (s : State) (bs : List Byte) (n : Nat) :
    OnlyRegsAndPc s ((s.loadRegs 0 bs).advance n) := by
  rw [State.loadRegs_eq]
  exact OnlyRegsAndPc.refl s

/-! ### The statements of the family -/

/-- Settles O25: in range the three digits are one run of writes, out of range the fault is the whole effect. -/
theorem storeDecimalDigits : Obligations.StoreDecimalDigits := by
  refine fun x s => ⟨decodeWord_encode (.ldBcd x), fun hin => ?_, exec_ldBcd_of_lt x⟩
  have hb : (s.reg x).toNat < 256 := (s.reg x).isLt
  have hdigit := s.byte_writeAll_add s.indexAddr (decimalDigits (s.reg x))
  have hother := s.byte_writeAll_outside s.indexAddr (decimalDigits (s.reg x))
  refine ⟨_, exec_ldBcd_of_le x hin, ?_, ?_, ?_, hother, rfl,
    onlyMemoryAndPc_advance s _ 2⟩
  · exact (congrArg BitVec.toNat (hdigit 0 (by rw [decimalDigits_length]; omega))).trans (toNat_ofNat_byte (by omega))
  · exact (congrArg BitVec.toNat (hdigit 1 (by rw [decimalDigits_length]; omega))).trans (toNat_ofNat_byte (by omega))
  · exact (congrArg BitVec.toNat (hdigit 2 (by rw [decimalDigits_length]; omega))).trans (toNat_ofNat_byte (by omega))

/-- Settles O26: in range the registers are one run of writes, out of range the fault is the whole effect. -/
theorem storeRegisterBlock : Obligations.StoreRegisterBlock := fun x s =>
  ⟨decodeWord_encode (.ldStore x), fun hin => ⟨_, exec_ldStore_of_le hin,
    s.byte_writeAll_regBlock x s.indexAddr, rfl, onlyMemoryAndPc_advance s _ 2⟩, exec_ldStore_of_lt⟩

/-- Settles O27: in range the bytes are one block of register writes, out of range the fault is the whole effect. -/
theorem loadRegisterBlock : Obligations.LoadRegisterBlock := fun x s =>
  ⟨decodeWord_encode (.ldLoad x), fun hin => ⟨_, exec_ldLoad_of_le hin,
    s.reg_loadRegs_range x fun j => s.byte (s.indexAddr + j),
    by rw [State.advance_pc, State.loadRegs_pc]; rfl, onlyRegsAndPc_loadRegs_advance s _ 2⟩,
    exec_ldLoad_of_lt⟩

/-- Settles O44: pc + 2 does not wrap, and both bytes of the word there are bytes of the block. -/
theorem storedCodeIsFetched : Obligations.StoredCodeIsFetched := by
  intro x s t j hin hj hpc ht
  obtain ⟨_, hstore, _⟩ := storeRegisterBlock x s
  obtain ⟨u, hu, hbyte, hupc, _⟩ := hstore hin
  obtain rfl : u = t := Host.Outcome.next.inj (hu.symm.trans ht)
  have hnext : u.pc.toNat = s.indexAddr + j := by
    rw [hupc, BitVec.toNat_add, ← hpc]
    exact Nat.mod_eq_of_lt (by simp; omega)
  rw [State.fetchWord, hnext, hbyte, hbyte, if_pos (by omega), if_pos (by omega), Nat.add_assoc,
    Nat.add_sub_cancel_left, Nat.add_sub_cancel_left, wordOfBytes]

end Sys2Proof.Machine
end

section
/-! PROOFS. The draw (spec/44_display.md section 2): column by column and row by row it XORs the sprite's bits in, and since no
pixel is met twice the whole is one XOR with the wrapped mask (R135). -/

namespace Sys2Proof.Machine

/-! ### Drawing a mask -/

/-- From canvas `d` to canvas `d'` every pixel was XORed with the mask once, and a collision is reported exactly when one was
before or the mask lay over a set pixel. -/
def Draws (m : Fin 64 → Fin 32 → Bool) (d d' : Canvas) : Prop :=
  (∀ x y, d'.1.pixel x y = (d.1.pixel x y ^^ m x y)) ∧
    (d'.2 = true ↔ d.2 = true ∨ ∃ x y, d.1.pixel x y = true ∧ m x y = true)

theorem Draws.congr {m m' : Fin 64 → Fin 32 → Bool} {d d' : Canvas} (h : Draws m d d') (hm : ∀ x y, m x y = m' x y) :
    Draws m' d d' := by
  have : m = m' := funext fun x => funext (hm x)
  rwa [← this]

theorem Draws.refl (d : Canvas) : Draws (fun _ _ => false) d d := by simp [Draws]

/-- Two masks that do not meet are drawn one after the other: the second finds its pixels as they were before the first. -/
theorem Draws.trans {m m' : Fin 64 → Fin 32 → Bool} {d d' d'' : Canvas} (h : Draws m d d') (h' : Draws m' d' d'')
    (hdisjoint : ∀ x y, m x y = true → m' x y = false) : Draws (fun x y => m x y || m' x y) d d'' := by
  obtain ⟨hpixel, hhit⟩ := h
  obtain ⟨hpixel', hhit'⟩ := h'
  have hsame (x y) : (d'.1.pixel x y = true ∧ m' x y = true) ↔ (d.1.pixel x y = true ∧ m' x y = true) := by
    rw [hpixel]
    cases hm : m x y
    · simp
    · simp [hdisjoint x y hm]
  constructor
  · intro x y
    rw [hpixel', hpixel, Bool.xor_assoc]
    cases hm : m x y
    · simp [hm]
    · simp [hm, hdisjoint x y hm]
  · rw [hhit', hhit]
    simp only [hsame, or_assoc, ← exists_or, Bool.or_eq_true, and_or_left]

theorem draws_drawPixel (bit : Bool) (x : Fin 64) (y : Fin 32) (d : Canvas) :
    Draws (fun x' y' => bit && decide (x' = x ∧ y' = y)) d (drawPixel bit x y d) := by
  refine ⟨fun x' y' => drawPixel_pixel bit x x' y y' d, ?_⟩
  rw [drawPixel_hit]
  cases bit <;> simp

/-! ### Where the sprite's columns and rows land (R132) -/

/-- The sprite's column that lands in column x. -/
def spriteCol (x0 : Byte) (x : Fin 64) : Nat := (x.val + 256 - x0.toNat) % 64

/-- The sprite's row that lands in row y. -/
def spriteRow (y0 : Byte) (y : Fin 32) : Nat := (y.val + 256 - y0.toNat) % 32

theorem eq_wrapX_iff (x0 : Byte) {col : Nat} (h : col < 64) (x : Fin 64) : x = wrapX x0 col ↔ spriteCol x0 x = col := by
  have hx0 : x0.toNat < 256 := x0.isLt
  rw [Fin.ext_iff, wrapX, spriteCol, Fin.val_ofNat]
  omega

theorem eq_wrapY_iff (y0 : Byte) {row : Nat} (h : row < 32) (y : Fin 32) : y = wrapY y0 row ↔ spriteRow y0 y = row := by
  have hy0 : y0.toNat < 256 := y0.isLt
  rw [Fin.ext_iff, wrapY, spriteRow, Fin.val_ofNat]
  omega

/-! ### One row -/

/-- The mask of the first n columns of a sprite row that lands in row y. -/
def columnsMask (n : Nat) (b x0 : Byte) (y : Fin 32) (x' : Fin 64) (y' : Fin 32) : Bool :=
  decide (y' = y) && decide (spriteCol x0 x' < n) && b.getLsbD (7 - spriteCol x0 x')

/-- One column more: no column before it lands in its pixel. -/
theorem draws_columns {n : Nat} (hn : n ≤ 8) (b x0 : Byte) (y : Fin 32) (d : Canvas) :
    Draws (columnsMask n b x0 y) d
      ((List.range n).foldl (fun d col => drawPixel (b.getLsbD (7 - col)) (wrapX x0 col) y d) d) := by
  induction n with
  | zero => exact (Draws.refl d).congr fun x' y' => by simp [columnsMask]
  | succ n ih =>
    rw [List.range_succ, List.foldl_append]
    refine ((ih (by omega)).trans (draws_drawPixel _ (wrapX x0 n) y _) fun x' y' h => ?_).congr fun x' y' => ?_
    all_goals simp only [columnsMask, eq_wrapX_iff x0 (show n < 64 by omega)] at *
    · have hlt : spriteCol x0 x' < n := by simp_all
      simp [hlt.ne]
    · rcases lt_trichotomy (spriteCol x0 x') n with hlt | heq | hgt
      · simp [hlt, hlt.ne, Nat.lt_succ_of_lt hlt]
      · simp [heq, Bool.and_comm]
      · simp [hgt.ne', not_lt.mpr hgt.le, not_lt.mpr (Nat.succ_le_of_lt hgt)]

theorem draws_drawRow (b x0 : Byte) (y : Fin 32) (d : Canvas) : Draws (columnsMask 8 b x0 y) d (drawRow b x0 y d) :=
  draws_columns (Nat.le_refl 8) b x0 y d

/-! ### The whole sprite -/

/-- The mask of the rows `bs` of a sprite, when the first of them is its row number `row`. -/
def rowsMask (row : Nat) (bs : List Byte) (x0 y0 : Byte) (x : Fin 64) (y : Fin 32) : Bool :=
  decide (row ≤ spriteRow y0 y) && decide (spriteCol x0 x < 8) &&
    (bs.getD (spriteRow y0 y - row) 0).getLsbD (7 - spriteCol x0 x)

theorem rowsMask_zero (bs : List Byte) (x0 y0 : Byte) (x : Fin 64) (y : Fin 32) :
    rowsMask 0 bs x0 y0 x y = spriteMask bs x0 y0 x y := by
  have hmask : spriteMask bs x0 y0 x y = match bs[spriteRow y0 y]? with
    | some b => decide (spriteCol x0 x < 8) && b.getLsbD (7 - spriteCol x0 x)
    | none => false := rfl
  rw [hmask, rowsMask, Nat.sub_zero, List.getD_eq_getElem?_getD]
  cases bs[spriteRow y0 y]? <;> simp

/-- One row more: fewer than 32 rows lie between any two, so no row after it lands in its pixels. -/
theorem draws_drawRows (x0 y0 : Byte) (bs : List Byte) (row : Nat) (h : row + bs.length ≤ 32) (d : Canvas) :
    Draws (rowsMask row bs x0 y0) d (drawRows x0 y0 row bs d) := by
  induction bs generalizing row d with
  | nil => exact (Draws.refl d).congr fun x y => by simp [rowsMask]
  | cons b bs ih =>
    rw [List.length_cons] at h
    refine ((draws_drawRow b x0 _ d).trans (ih (row + 1) (by omega) _) fun x y hrow => ?_).congr fun x y => ?_
    all_goals simp only [columnsMask, rowsMask, eq_wrapY_iff y0 (show row < 32 by omega)] at *
    · have heq : spriteRow y0 y = row := by simp_all
      simp [heq]
    · rcases lt_trichotomy (spriteRow y0 y) row with hlt | heq | hgt
      · simp [hlt.ne, not_le.mpr hlt, not_le.mpr (Nat.lt_succ_of_lt hlt)]
      · simp [heq]
      · obtain ⟨k, hk⟩ := Nat.exists_eq_add_of_lt hgt
        have hne : row + k + 1 ≠ row := by omega
        have hle : row ≤ row + k + 1 := by omega
        simp [hk, hne, hle, show row + k + 1 - row = k + 1 by omega, show row + k + 1 - (row + 1) = k by omega]

theorem draws_drawSprite (fb : Framebuffer) (x0 y0 : Byte) {bs : List Byte} (h : bs.length ≤ 32) :
    Draws (spriteMask bs x0 y0) (fb, false) (drawSprite fb x0 y0 bs) :=
  (draws_drawRows x0 y0 bs 0 (by omega) (fb, false)).congr (rowsMask_zero bs x0 y0)

/-! ### What the instruction does -/

/-- The canvas a draw of n rows leaves. -/
def State.drawn (s : State) (x y n : Nibble) : Canvas :=
  drawSprite s.fb (s.reg x) (s.reg y) (s.spriteBytes n.toNat)

theorem exec_drw_of_le (x y : Nibble) {n : Nibble} {s : State} (h : n.toNat = 0 ∨ s.i.toNat + n.toNat - 1 ≤ 0xFFF) :
    exec (.drw x y n) s =
      .next (((s.setDisplay (s.drawn x y n).1).setReg regF (flagByte (s.drawn x y n).2)).advance 2) := by
  have hin : n.toNat = 0 ∨ s.indexAddr + n.toNat ≤ memSize := by simp only [State.indexAddr, memSize]; omega
  rw [exec, execDrw, State.loadBytes_of_le hin]
  rfl

theorem exec_drw_of_lt (x y : Nibble) {n : Nibble} {s : State} (hn : 0 < n.toNat)
    (h : 0xFFF < s.i.toNat + n.toNat - 1) : exec (.drw x y n) s = .next (s.raise .addressFault) := by
  have hout : memSize < s.indexAddr + n.toNat := by simp only [State.indexAddr, memSize]; omega
  rw [exec, execDrw, State.loadBytes_of_lt hn hout]

theorem State.draws_drawn (s : State) (x y n : Nibble) :
    Draws (spriteMask (s.spriteBytes n.toNat) (s.reg x) (s.reg y)) (s.fb, false) (s.drawn x y n) := by
  have hn : n.toNat < 16 := n.isLt
  exact draws_drawSprite _ _ _ (by simp [State.spriteBytes]; omega)

theorem flagByte_eq_one_iff (f : Bool) : flagByte f = 1 ↔ f = true := by cases f <;> decide

theorem flagByte_eq_zero_or_one (f : Bool) : flagByte f = 0 ∨ flagByte f = 1 := by cases f <;> decide

/-! ### The statements of the family -/

/-- Settles O29: in range the sprite is drawn as one mask, out of range the fault is the whole effect. -/
theorem drawXorsTheWrappedSprite : Obligations.DrawXorsTheWrappedSprite := by
  intro x y n s m
  refine ⟨decodeWord_encode (.drw x y n), fun hin => ?_, fun ⟨hn, hout⟩ => exec_drw_of_lt x y hn hout⟩
  obtain ⟨hpixel, hhit⟩ := s.draws_drawn x y n
  obtain ⟨hindex, hstack, htimers, hmem, _, hkept⟩ := OnlyRegsAndPc.refl s
  have hreg (r : Nibble) := State.reg_setReg (s.setDisplay (s.drawn x y n).1) regF r (flagByte (s.drawn x y n).2)
  refine ⟨_, exec_drw_of_le x y hin, hpixel, fun r hr => (hreg r).trans (if_neg hr), ?_, ?_, rfl, rfl, hindex, hstack,
    htimers, hmem, hkept⟩
  all_goals rw [State.reg_advance, hreg, if_pos rfl]
  · exact flagByte_eq_zero_or_one _
  · rw [flagByte_eq_one_iff, hhit]
    simp only [Bool.false_eq_true, false_or]
    rfl

/-- Settles O30: the second draw has the first one's mask, and finds each pixel under it inverted. -/
theorem drawingTwiceRestores : Obligations.DrawingTwiceRestores := by
  intro x y n s hx hy hin m
  obtain ⟨_, hdraw, _⟩ := drawXorsTheWrappedSprite x y n s
  obtain ⟨t, ht, hpixel, hregs, _, _, _, _, hindex, _, _, hmem, _⟩ := hdraw hin
  have hbytes : t.spriteBytes n.toNat = s.spriteBytes n.toNat := by
    have hi : t.i = s.i := hindex
    simp only [State.spriteBytes, hi, hmem _]
  have hmask : spriteMask (t.spriteBytes n.toNat) (t.reg x) (t.reg y) = m := by
    rw [hbytes, hregs x hx, hregs y hy]
  obtain ⟨_, hdraw', _⟩ := drawXorsTheWrappedSprite x y n t
  rw [hmask] at hdraw'
  obtain ⟨u, hu, hpixel', _, _, hhit, _⟩ := hdraw' (hindex ▸ hin)
  refine ⟨t, u, ht, hu, fun px py => ?_, hhit.trans (exists_congr fun px => exists_congr fun py => ?_)⟩
  · rw [hpixel', hpixel, Bool.xor_assoc, Bool.xor_self, Bool.xor_false]
  · rw [hpixel]
    change ((s.pixel px py ^^ m px py) = true ∧ m px py = true) ↔ _
    cases m px py <;> simp

end Sys2Proof.Machine
end

section
/-! PROOFS. Everything an instruction can do, said once: `Effect` lists the groups of cells the 34 instructions write, and the six
faults with their causes. The whole-machine statements are read off it. -/

namespace Sys2Proof.Machine

/-! ### The groups of instructions (spec/10_state.md section 1, column "written by") -/

/-- I is written by ANNN, FX1E and FX29. -/
def WritesIndex (i : Instr) : Prop :=
  (∃ n, i = .ldIndex n) ∨ (∃ x, i = .addIndex x) ∨ (∃ x, i = .ldFont x)

/-- Memory is written by FX33 and FX55. -/
def WritesMemory (i : Instr) : Prop := (∃ x, i = .ldBcd x) ∨ (∃ x, i = .ldStore x)

/-- FB and DRAWF are written by 00E0 and DXYN. -/
def WritesDisplay (i : Instr) : Prop := i = .cls ∨ ∃ x y n, i = .drw x y n

/-- The six fatal errors an instruction can raise, with their causes (spec/60_exceptions.md section 1). -/
inductive FaultCause (s : State) : Instr → ErrCode → Prop
  | call (nnn : Addr12) (h : s.sp.val = 16) : FaultCause s (.call nnn) .stackOverflow
  | ret (h : s.sp.val = 0) : FaultCause s .ret .stackUnderflow
  | ldBcd (x : Nibble) (h : 0xFFF < s.i.toNat + 2) : FaultCause s (.ldBcd x) .addressFault
  | ldStore (x : Nibble) (h : 0xFFF < s.i.toNat + x.toNat) : FaultCause s (.ldStore x) .addressFault
  | ldLoad (x : Nibble) (h : 0xFFF < s.i.toNat + x.toNat) : FaultCause s (.ldLoad x) .addressFault
  | drw (x y n : Nibble) (hn : 0 < n.toNat) (h : 0xFFF < s.i.toNat + n.toNat - 1) :
      FaultCause s (.drw x y n) .addressFault

/-- A pc that a jump can name, or one at most 4 past the instruction (spec/10_state.md R17). -/
def State.CanMoveTo (s : State) (pc : Word) : Prop := pc.toNat ≤ 0x10FE ∨ ∃ n ≤ 4, pc = s.pc + BitVec.ofNat 16 n

/-- What an instruction can leave, from the state before it. -/
inductive Effect (s : State) : Instr → State → Prop
  | regs {i : Instr} (v : Vector Byte 16) (pc : Word) (hpc : s.CanMoveTo pc) : Effect s i { s with v := v, pc := pc }
  | rnd (x : Nibble) (kk : Byte) (v : Vector Byte 16) :
      Effect s (.rnd x kk) { s with v := v, pc := s.pc + 2, rndIn := none, draws := s.draws + 1 }
  | index {i : Instr} (hi : WritesIndex i) (v : Vector Byte 16) (w : Word) :
      Effect s i { s with v := v, i := w, pc := s.pc + 2 }
  | delay (x : Nibble) (b : Byte) : Effect s (.ldSetDT x) { s with dt := b, pc := s.pc + 2 }
  | sound (x : Nibble) (b : Byte) : Effect s (.ldSetST x) { s with st := b, pc := s.pc + 2 }
  | memory {i : Instr} (hi : WritesMemory i) (bs : List Byte) (hin : s.indexAddr + bs.length ≤ memSize) :
      Effect s i { s with mem := s.mem.writeAll s.cfg s.indexAddr bs, pc := s.pc + 2 }
  | display {i : Instr} (hi : WritesDisplay i) (v : Vector Byte 16) (fb : Framebuffer) :
      Effect s i { s with v := v, fb := fb, drawf := true, pc := s.pc + 2 }
  | call (nnn : Addr12) (sp : Fin 17) (stack : Vector Word 16) (hsp : sp.val = s.sp.val + 1)
      (hstack : ∀ j, ({ s with sp := sp, stack := stack } : State).stackAt j =
        if j = s.sp.val then s.pc else s.stackAt j) :
      Effect s (.call nnn) { s with sp := sp, stack := stack, pc := addrOperand nnn }
  | ret (sp : Fin 17) (hpos : 0 < s.sp.val) (hsp : sp.val = s.sp.val - 1) :
      Effect s .ret { s with sp := sp, pc := s.stackAt (s.sp.val - 1) + 2 }
  | fault {i : Instr} {e : ErrCode} (hcause : FaultCause s i e) : Effect s i (s.raise e)

/-! ### The shapes most instructions share -/

theorem Effect.setReg_advance (s : State) (i : Instr) (x : Nibble) (b : Byte) :
    Effect s i ((s.setReg x b).advance 2) := .regs _ _ (.inr ⟨2, by decide, rfl⟩)

theorem Effect.setRegFlag_advance (s : State) (i : Instr) (x : Nibble) (b : Byte) (f : Bool) :
    Effect s i ((s.setRegFlag x b f).advance 2) := .regs _ _ (.inr ⟨2, by decide, rfl⟩)

theorem Effect.setPc_of_le (s : State) (i : Instr) {w : Word} (h : w.toNat ≤ 0x10FE) : Effect s i (s.setPc w) :=
  .regs s.v w (.inl h)

/-- A skip, whatever its condition. -/
theorem Effect.skip (s : State) (i : Instr) (p : Prop) [Decidable p] :
    Effect s i (s.setPc (if p then s.pc + 4 else s.pc + 2)) := by
  split
  · exact .regs s.v _ (.inr ⟨4, by decide, rfl⟩)
  · exact .regs s.v _ (.inr ⟨2, by decide, rfl⟩)

theorem Effect.unchanged (s : State) (i : Instr) : Effect s i s :=
  .regs s.v s.pc (.inr ⟨0, by decide, (BitVec.add_zero s.pc).symm⟩)

/-! ### Every instruction has an effect -/

theorem exec_call_effect (nnn : Addr12) (s : State) : ∃ t, exec (.call nnn) s = .next t ∧ Effect s (.call nnn) t := by
  by_cases h : s.sp.val = 16
  · exact ⟨_, exec_call_of_full nnn h, .fault (.call nnn h)⟩
  · obtain ⟨sp, stack, hexec, hsp, hstack⟩ := exec_call_of_lt nnn (show s.sp.val < 16 by omega)
    exact ⟨_, hexec, .call nnn sp stack hsp hstack⟩

theorem exec_ret_effect (s : State) : ∃ t, exec .ret s = .next t ∧ Effect s .ret t := by
  by_cases h : s.sp.val = 0
  · exact ⟨_, exec_ret_of_empty h, .fault (.ret h)⟩
  · obtain ⟨sp, hexec, hsp⟩ := exec_ret_of_pos (Nat.pos_of_ne_zero h)
    exact ⟨_, hexec, .ret sp (Nat.pos_of_ne_zero h) hsp⟩

theorem exec_drw_effect (x y n : Nibble) (s : State) :
    ∃ t, exec (.drw x y n) s = .next t ∧ Effect s (.drw x y n) t := by
  by_cases h : n.toNat = 0 ∨ s.i.toNat + n.toNat - 1 ≤ 0xFFF
  · exact ⟨_, exec_drw_of_le x y h, .display (.inr ⟨x, y, n, rfl⟩) _ _⟩
  · obtain ⟨hn, hout⟩ := not_or.mp h
    exact ⟨_, exec_drw_of_lt x y (Nat.pos_of_ne_zero hn) (Nat.lt_of_not_le hout),
      .fault (.drw x y n (Nat.pos_of_ne_zero hn) (Nat.lt_of_not_le hout))⟩

theorem exec_ldBcd_effect (x : Nibble) (s : State) : ∃ t, exec (.ldBcd x) s = .next t ∧ Effect s (.ldBcd x) t := by
  by_cases h : s.indexAddr + 2 ≤ 0xFFF
  · exact ⟨_, exec_ldBcd_of_le x h, .memory (.inl ⟨x, rfl⟩) _ (by rw [decimalDigits_length, memSize]; omega)⟩
  · exact ⟨_, exec_ldBcd_of_lt x (Nat.lt_of_not_le h), .fault (.ldBcd x (Nat.lt_of_not_le h))⟩

theorem exec_ldStore_effect (x : Nibble) (s : State) :
    ∃ t, exec (.ldStore x) s = .next t ∧ Effect s (.ldStore x) t := by
  by_cases h : s.indexAddr + x.toNat ≤ 0xFFF
  · exact ⟨_, exec_ldStore_of_le h, .memory (.inr ⟨x, rfl⟩) _ (by rw [regBlock_length, memSize]; omega)⟩
  · exact ⟨_, exec_ldStore_of_lt (Nat.lt_of_not_le h), .fault (.ldStore x (Nat.lt_of_not_le h))⟩

theorem exec_ldLoad_effect (x : Nibble) (s : State) :
    ∃ t, exec (.ldLoad x) s = .next t ∧ Effect s (.ldLoad x) t := by
  by_cases h : s.indexAddr + x.toNat ≤ 0xFFF
  · refine ⟨_, exec_ldLoad_of_le h, ?_⟩
    rw [State.loadRegs_eq]
    exact .regs _ _ (.inr ⟨2, by decide, rfl⟩)
  · exact ⟨_, exec_ldLoad_of_lt (Nat.lt_of_not_le h), .fault (.ldLoad x (Nat.lt_of_not_le h))⟩

theorem exec_ldKey_effect (x : Nibble) (s : State) : ∃ t, exec (.ldKey x) s = .next t ∧ Effect s (.ldKey x) t := by
  cases h : s.firstKey with
  | none => exact ⟨_, exec_ldKey_of_none x h, .unchanged s _⟩
  | some k => exact ⟨_, exec_ldKey_of_some x h, .setReg_advance s _ x _⟩

theorem exec_jp_effect (nnn : Addr12) (s : State) : ∃ t, exec (.jp nnn) s = .next t ∧ Effect s (.jp nnn) t := by
  have hn : nnn.toNat < 4096 := nnn.isLt
  exact ⟨_, exec_jp nnn s, .setPc_of_le s _ (by rw [addrOperand_toNat]; omega)⟩

theorem exec_jpV0_effect (nnn : Addr12) (s : State) :
    ∃ t, exec (.jpV0 nnn) s = .next t ∧ Effect s (.jpV0 nnn) t := by
  have hn : nnn.toNat < 4096 := nnn.isLt
  have hv : (s.reg 0).toNat < 256 := (s.reg 0).isLt
  exact ⟨_, exec_jpV0 nnn s, .setPc_of_le s _ (by rw [jumpV0Target_toNat]; omega)⟩

/-- Every instruction answers, with one of the effects. -/
theorem exec_effect (i : Instr) (s : State) : ∃ t, exec i s = .next t ∧ Effect s i t := by
  cases i with
  | cls => exact ⟨_, exec_cls s, .display (.inl rfl) _ _⟩
  | ret => exact exec_ret_effect s
  | jp nnn => exact exec_jp_effect nnn s
  | call nnn => exact exec_call_effect nnn s
  | seI x kk => exact ⟨_, exec_seI x kk s, .skip s _ _⟩
  | sneI x kk => exact ⟨_, exec_sneI x kk s, .skip s _ _⟩
  | seR x y => exact ⟨_, exec_seR x y s, .skip s _ _⟩
  | ldI x kk => exact ⟨_, exec_ldI x kk s, .setReg_advance s _ x _⟩
  | addI x kk => exact ⟨_, exec_addI x kk s, .setReg_advance s _ x _⟩
  | ldR x y => exact ⟨_, exec_ldR x y s, .setReg_advance s _ x _⟩
  | orR x y => exact ⟨_, exec_orR x y s, .setReg_advance s _ x _⟩
  | andR x y => exact ⟨_, exec_andR x y s, .setReg_advance s _ x _⟩
  | xorR x y => exact ⟨_, exec_xorR x y s, .setReg_advance s _ x _⟩
  | addR x y => exact ⟨_, exec_addR x y s, .setRegFlag_advance s _ x _ _⟩
  | sub x y => exact ⟨_, exec_sub x y s, .setRegFlag_advance s _ x _ _⟩
  | shr x y => exact ⟨_, exec_shr x y s, .setRegFlag_advance s _ x _ _⟩
  | subn x y => exact ⟨_, exec_subn x y s, .setRegFlag_advance s _ x _ _⟩
  | shl x y => exact ⟨_, exec_shl x y s, .setRegFlag_advance s _ x _ _⟩
  | sneR x y => exact ⟨_, exec_sneR x y s, .skip s _ _⟩
  | ldIndex nnn => exact ⟨_, exec_ldIndex nnn s, .index (.inl ⟨nnn, rfl⟩) _ _⟩
  | jpV0 nnn => exact exec_jpV0_effect nnn s
  | rnd x kk => exact ⟨_, exec_rnd x kk s, .rnd x kk _⟩
  | drw x y n => exact exec_drw_effect x y n s
  | skp x => exact ⟨_, exec_skp x s, .skip s _ _⟩
  | sknp x => exact ⟨_, exec_sknp x s, .skip s _ _⟩
  | ldGetDT x => exact ⟨_, exec_ldGetDT x s, .setReg_advance s _ x _⟩
  | ldKey x => exact exec_ldKey_effect x s
  | ldSetDT x => exact ⟨_, exec_ldSetDT x s, .delay x _⟩
  | ldSetST x => exact ⟨_, exec_ldSetST x s, .sound x _⟩
  | addIndex x => exact ⟨_, exec_addIndex x s, .index (.inr (.inl ⟨x, rfl⟩)) _ _⟩
  | ldFont x => exact ⟨_, exec_ldFont x s, .index (.inr (.inr ⟨x, rfl⟩)) _ _⟩
  | ldBcd x => exact exec_ldBcd_effect x s
  | ldStore x => exact exec_ldStore_effect x s
  | ldLoad x => exact exec_ldLoad_effect x s

theorem effect_of_exec {i : Instr} {s t : State} (h : exec i s = .next t) : Effect s i t := by
  obtain ⟨u, hu, heffect⟩ := exec_effect i s
  rwa [← Host.Outcome.next.inj (hu.symm.trans h)]

end Sys2Proof.Machine
end

section
/-! PROOFS. The Step (spec/40_step_cycle.md; spec/60_exceptions.md): its outcomes as rules, and the statements on AWAIT, events,
faults and who writes which cell. -/

namespace Sys2Proof.Machine

/-! ### The outcomes of a Step (R80) -/

theorem State.halted_eq_false {s : State} (hr : s.Running) : s.halted = false := by
  simpa [State.halted, State.Running] using hr

theorem State.halted_eq_true {s : State} (hh : s.err ≠ .none) : s.halted = true := by
  simpa [State.halted] using hh

theorem State.canFetch_eq_true {s : State} (hp : s.pc.toNat ≤ 0xFFE) : s.canFetch = true := decide_eq_true hp

theorem State.canFetch_eq_false {s : State} (hp : 0xFFE < s.pc.toNat) : s.canFetch = false :=
  decide_eq_false (Nat.not_le_of_lt hp)

theorem step_of_halted {s : State} (hh : s.err ≠ .none) : step s = .next s := by
  simp [step, cycle, State.halted_eq_true hh]

theorem step_of_decode {s t : State} {i : Instr} (hr : s.Running) (hp : s.pc.toNat ≤ 0xFFE)
    (hd : decodeWord s.fetchWord = some i) (hx : exec i s = .next t) : step s = .next (t.setAwait (awaitAfter i s)) := by
  simp [step, cycle, State.halted_eq_false hr, State.canFetch_eq_true hp, hd, hx, onNext]

theorem step_of_unknown {s : State} (hr : s.Running) (hp : s.pc.toNat ≤ 0xFFE) (hd : decodeWord s.fetchWord = none) :
    step s = .next s.skipUnknown := by
  simp [step, cycle, State.halted_eq_false hr, State.canFetch_eq_true hp, hd]

theorem step_answers (s : State) : ∃ t, step s = .next t := by
  by_cases hr : s.err = .none
  · by_cases hp : s.pc.toNat ≤ 0xFFE
    · cases hd : decodeWord s.fetchWord with
      | none => exact ⟨_, step_of_unknown hr hp hd⟩
      | some i =>
        obtain ⟨t, hx, _⟩ := exec_effect i s
        exact ⟨_, step_of_decode hr hp hd hx⟩
    · exact ⟨_, step_of_unfetchable hr (Nat.lt_of_not_le hp)⟩
  · exact ⟨_, step_of_halted hr⟩

/-! ### The Step command (spec/46_host_commands.md R150) -/

/-- The command is the Step of the state that holds the byte, and leaves none. -/
theorem perform_step_of_step {s u : State} {b : Byte} (h : step { s with rndIn := some b } = .next u) :
    perform (.step b) s = .next ({ u with rndIn := none }, .stepped s.stepEvent) := by
  have hcycle : cycle { s with rndIn := some b } = .next u := h
  rw [perform, State.stepWith, hcycle]
  rfl

theorem step_of_perform_step {s t : State} {b : Byte} {r : Response} (h : perform (.step b) s = .next (t, r)) :
    ∃ u, step { s with rndIn := some b } = .next u ∧ t = { u with rndIn := none } ∧ r = .stepped s.stepEvent := by
  obtain ⟨u, hu⟩ := step_answers { s with rndIn := some b }
  obtain ⟨rfl, rfl⟩ := Prod.mk.inj (Host.Outcome.next.inj ((perform_step_of_step hu).symm.trans h))
  exact ⟨u, hu, rfl, rfl⟩

theorem State.rndIn_none_self {s : State} (h : s.rndIn = none) : { s with rndIn := none } = s := by
  rw [← h]

/-! ### The event of a Step (spec/60_exceptions.md R176) -/

theorem State.stepEvent_of_halted {s : State} (hh : s.err ≠ .none) : s.stepEvent = none := by
  simp [State.stepEvent, State.halted_eq_true hh]

theorem State.stepEvent_of_unfetchable {s : State} (hp : 0xFFE < s.pc.toNat) : s.stepEvent = none := by
  simp [State.stepEvent, State.canFetch_eq_false hp]

theorem State.stepEvent_of_decode {s : State} {i : Instr} (hd : decodeWord s.fetchWord = some i) :
    s.stepEvent = none := by
  simp [State.stepEvent, hd]

theorem State.stepEvent_of_unknown {s : State} (hr : s.Running) (hp : s.pc.toNat ≤ 0xFFE)
    (hd : decodeWord s.fetchWord = none) : s.stepEvent = some ⟨s.pc, s.fetchWord⟩ := by
  simp [State.stepEvent, State.halted_eq_false hr, State.canFetch_eq_true hp, hd]

/-- Any other Step emits none. -/
theorem State.stepEvent_eq_some {s : State} {e : UnknownOpcode} (h : s.stepEvent = some e) :
    s.Running ∧ s.pc.toNat ≤ 0xFFE ∧ decodeWord s.fetchWord = none ∧ e = ⟨s.pc, s.fetchWord⟩ := by
  have hr : s.Running := by_contra fun hh => by simp [State.stepEvent_of_halted hh] at h
  have hp : s.pc.toNat ≤ 0xFFE :=
    Nat.le_of_not_lt fun hlt => by simp [State.stepEvent_of_unfetchable hlt] at h
  cases hd : decodeWord s.fetchWord with
  | none => exact ⟨hr, hp, rfl, Option.some.inj (h.symm.trans (State.stepEvent_of_unknown hr hp hd))⟩
  | some i => simp [State.stepEvent_of_decode hd] at h

/-! ### AWAIT (spec/40_step_cycle.md R86) -/

theorem isKeyWait_iff (i : Instr) : isKeyWait i = true ↔ ∃ x, i = .ldKey x := by
  cases i <;> simp [isKeyWait]

theorem awaitAfter_iff (i : Instr) (s : State) :
    awaitAfter i s = true ↔ (∃ x, i = .ldKey x) ∧ ∀ k, s.keyDown k = false := by
  rw [awaitAfter, Bool.and_eq_true, isKeyWait_iff, Option.isNone_iff_eq_none, State.firstKey_eq_none]

theorem FaultCause.awaitAfter_eq_false {s : State} {i : Instr} {e : ErrCode} (h : FaultCause s i e) :
    awaitAfter i s = false := by
  cases h <;> rfl

/-! ### What an effect leaves unchanged -/

/-- An effect on ERR is a fault, and then it is the whole effect. -/
theorem Effect.err_cases {s t : State} {i : Instr} (h : Effect s i t) :
    t.err = s.err ∨ ∃ e, FaultCause s i e ∧ t = s.raise e := by
  cases h with
  | fault hcause => exact .inr ⟨_, hcause, rfl⟩
  | _ => exact .inl rfl

/-- The host's cells: no instruction writes KEY, SNDP or the parameters, and none clears DRAWF. -/
theorem Effect.hostCells {s t : State} {i : Instr} (h : Effect s i t) :
    t.key = s.key ∧ t.sndp = s.sndp ∧ t.cfg = s.cfg ∧ (s.drawf = true → t.drawf = true) := by
  cases h with
  | display => exact ⟨rfl, rfl, rfl, fun _ => rfl⟩
  | _ => exact ⟨rfl, rfl, rfl, id⟩

/-- The writers of I, DT, ST, memory, the display and the stack. -/
theorem Effect.writers {s t : State} {i : Instr} (h : Effect s i t) :
    (t.i = s.i ∨ WritesIndex i) ∧ (t.dt = s.dt ∨ ∃ x, i = .ldSetDT x) ∧ (t.st = s.st ∨ ∃ x, i = .ldSetST x) ∧
      (t.mem = s.mem ∨ WritesMemory i) ∧ (t.fb = s.fb ∧ t.drawf = s.drawf ∨ WritesDisplay i) ∧
      (t.sp = s.sp ∧ t.stack = s.stack ∨ i = .ret ∨ ∃ n, i = .call n) := by
  cases h with
  | index hi => simp [hi]
  | memory hi => simp [hi]
  | display hi => simp [hi]
  | _ => simp

/-! ### The statements on single Steps -/

/-- Settles O40: a Step has an outcome in each of its branches, and every other command is a function of the state. -/
theorem everyStepAndCommandAnswers : Obligations.EveryStepAndCommandAnswers := by
  refine ⟨step_answers, fun c s => ?_⟩
  cases c with
  | reset => exact ⟨_, _, rfl⟩
  | load bytes =>
    cases h : s.load bytes with
    | ok t => exact ⟨_, _, perform_load_of_ok h⟩
    | error e => exact ⟨_, _, perform_load_of_error h⟩
  | step b =>
    obtain ⟨u, hu⟩ := step_answers { s with rndIn := some b }
    exact ⟨_, _, perform_step_of_step hu⟩
  | tick => exact ⟨_, _, rfl⟩
  | setKey k p => exact ⟨_, _, rfl⟩
  | consumeRedraw => exact ⟨_, _, rfl⟩

theorem decodeWord_of_decode {hi lo : Byte} {i : Instr} {rest : List Byte} (h : decode [hi, lo] = .ok (i, rest)) :
    decodeWord (wordOfBytes hi lo) = some i := by
  cases hd : decodeWord (wordOfBytes hi lo) with
  | none => simp [decode, hd] at h
  | some j => simp_all [decode]

/-- Settles O35: the Step's decoder is the one over bytes, and its AWAIT is the key condition. -/
theorem stepRunsTheDecodedInstruction : Obligations.StepRunsTheDecodedInstruction := by
  intro s i hr hp hdecode
  obtain ⟨t, hx, _⟩ := exec_effect i s
  have hawait : awaitAfter i s = (isKeyWait i && decide (∀ k, s.keyDown k = false)) := by
    rw [Bool.eq_iff_iff, awaitAfter_iff, Bool.and_eq_true, isKeyWait_iff, decide_eq_true_eq]
  refine ⟨fun u hu => ?_, t, hx⟩
  rw [step_of_decode hr hp (decodeWord_of_decode hdecode) hu, hawait]
  rfl

/-- Settles O36: the halted branch, for the Step and for the command, which leaves no byte behind. -/
theorem haltedStepDoesNothing : Obligations.HaltedStepDoesNothing := by
  refine fun s hh => ⟨step_of_halted hh, fun b hrnd => ?_⟩
  rw [perform_step_of_step (u := { s with rndIn := some b }) (step_of_halted hh), State.stepEvent_of_halted hh]
  exact congrArg (fun t => Host.Outcome.next (t, Response.stepped none)) (State.rndIn_none_self hrnd)

/-- Settles O37: the fetch check fails, and the fault is the whole effect. -/
theorem unfetchablePcFaults : Obligations.UnfetchablePcFaults := fun _ hr hp =>
  ⟨step_of_unfetchable hr hp, State.stepEvent_of_unfetchable hp, rfl, congrArg ErrCode.code hr⟩

/-- Settles O38: the unknown branch, for the Step and for the command, which reports it. -/
theorem unknownOpcodeIsSkippedAndReported : Obligations.UnknownOpcodeIsSkippedAndReported := by
  intro s b hr hp hrnd hd
  refine ⟨step_of_unknown hr hp hd, ?_⟩
  rw [perform_step_of_step (u := State.skipUnknown { s with rndIn := some b }) (step_of_unknown hr hp hd),
    State.stepEvent_of_unknown hr hp hd]
  exact congrArg (fun t => Host.Outcome.next (State.skipUnknown t, Response.stepped _)) (State.rndIn_none_self hrnd)

/-- Settles O39: the response carries the event of the state before, which only the unknown branch has. -/
theorem eventsOnlyFromUnknownOpcodes : Obligations.EventsOnlyFromUnknownOpcodes := by
  intro s t b e h
  obtain ⟨u, hu, rfl, hresponse⟩ := step_of_perform_step h
  have hevent : s.stepEvent = some e := (Response.stepped.inj hresponse).symm
  obtain ⟨hr, hp, hd, rfl⟩ := State.stepEvent_eq_some hevent
  obtain rfl := Host.Outcome.next.inj ((step_of_unknown (s := { s with rndIn := some b }) hr hp hd).symm.trans hu)
  exact ⟨hr, hp, rfl, rfl, rfl, hd, rfl, hr⟩

/-- Settles O41: every branch of a running Step writes AWAIT, and only the executed instruction can set it. -/
theorem awaitAfterEveryStep : Obligations.AwaitAfterEveryStep := by
  intro s t hr ht
  obtain ⟨hh, _⟩ | ⟨_, hp, rfl⟩ | ⟨_, hp, hd, rfl⟩ | ⟨_, hp, i, u, hd, _, rfl⟩ := cycle_cases ht
  · exact absurd hr hh
  · simp [Nat.not_le_of_lt hp]
  · simp [State.skipUnknown, hd]
  · simp [hp, hd, awaitAfter_iff]

/-- Settles O34: FX0A with no key pressed leaves the state as it is, and AWAIT is read by no Step. -/
theorem keyReadWaits : Obligations.KeyReadWaits := by
  have hwait (x : Nibble) (s : State) (hr : s.Running) (hp : s.pc.toNat ≤ 0xFFE)
      (hfetch : s.fetchWord = encode (.ldKey x)) (hkeys : ∀ k, s.keyDown k = false) :
      step s = .next (s.setAwait true) := by
    have hd : decodeWord s.fetchWord = some (.ldKey x) := by rw [hfetch, decodeWord_encode]
    have hawait : awaitAfter (.ldKey x) s = true := (awaitAfter_iff _ s).mpr ⟨⟨x, rfl⟩, hkeys⟩
    rw [step_of_decode hr hp hd (exec_ldKey_of_none x (s.firstKey_eq_none.mpr hkeys)), hawait]
  exact fun x s hr hp hfetch hkeys =>
    ⟨hwait x s hr hp hfetch hkeys, hwait x (s.setAwait true) hr hp hfetch hkeys⟩

/-- Settles O43: the jump writes pc with the value it has, and AWAIT was 0. -/
theorem jumpToItselfIsStable : Obligations.JumpToItselfIsStable := by
  intro s nnn hr hawait hself hin hfetch
  have hd : decodeWord s.fetchWord = some (.jp nnn) := by rw [hfetch]; exact decodeWord_encode (.jp nnn)
  have hpc : addrOperand nnn = s.pc := BitVec.eq_of_toNat_eq ((addrOperand_toNat nnn).trans hself.symm)
  have hstays : s.setAwait (awaitAfter (.jp nnn) s) = s := by
    rw [show awaitAfter (.jp nnn) s = s.await from hawait.symm]
    rfl
  rw [step_of_decode hr (hself ▸ hin) hd (exec_jp nnn s), hpc, State.setPc_self, hstays]

/-- Settles O42: only a fault leaves an error, and a fault is the whole effect. -/
theorem fatalErrorsArePreciseAndCaused : Obligations.FatalErrorsArePreciseAndCaused := by
  intro s t hr ht herr
  obtain ⟨hh, _⟩ | ⟨_, hp, rfl⟩ | ⟨_, _, _, rfl⟩ | ⟨_, _, i, u, hd, hx, rfl⟩ := cycle_cases ht
  · exact absurd hr hh
  · exact ⟨rfl, .inr (.inr ⟨rfl, .inl hp⟩)⟩
  · exact absurd hr herr
  obtain hsame | ⟨e, hcause, rfl⟩ := (effect_of_exec hx).err_cases
  · exact absurd (hsame.trans hr) herr
  rw [hcause.awaitAfter_eq_false]
  refine ⟨rfl, ?_⟩
  cases hcause with
  | call nnn h => exact .inl ⟨rfl, h, nnn, hd⟩
  | ret h => exact .inr (.inl ⟨rfl, h, hd⟩)
  | ldBcd x h => exact .inr (.inr ⟨rfl, .inr (.inl ⟨x, hd, h⟩)⟩)
  | ldStore x h => exact .inr (.inr ⟨rfl, .inr (.inr (.inl ⟨x, hd, h⟩))⟩)
  | ldLoad x h => exact .inr (.inr ⟨rfl, .inr (.inr (.inr (.inl ⟨x, hd, h⟩)))⟩)
  | drw x y n hn h => exact .inr (.inr ⟨rfl, .inr (.inr (.inr (.inr ⟨x, y, n, hd, hn, h⟩)))⟩)

/-- Settles O48: the branches without an instruction write ERR, AWAIT and pc only, and no effect writes the host's cells. -/
theorem stepLeavesTheHostsCells : Obligations.StepLeavesTheHostsCells := by
  intro s t ht
  obtain ⟨_, rfl⟩ | ⟨hr, _, rfl⟩ | ⟨_, _, _, rfl⟩ | ⟨hr, _, i, u, _, hx, rfl⟩ := cycle_cases ht
  · exact ⟨rfl, rfl, rfl, id, fun _ => rfl⟩
  · exact ⟨rfl, rfl, rfl, id, fun hh => absurd hr hh⟩
  · exact ⟨rfl, rfl, rfl, id, fun _ => rfl⟩
  · obtain ⟨hkey, hsndp, hcfg, hdrawf⟩ := (effect_of_exec hx).hostCells
    exact ⟨hkey, hsndp, hcfg, hdrawf, fun hh => absurd hr hh⟩

/-- Settles O49: the branches without an instruction write none of the cells, and each effect has its writers. -/
theorem cellsChangeOnlyByTheirWriters : Obligations.CellsChangeOnlyByTheirWriters := by
  intro s t ht
  obtain ⟨_, rfl⟩ | ⟨_, _, rfl⟩ | ⟨_, _, _, rfl⟩ | ⟨_, _, i, u, hd, hx, rfl⟩ := cycle_cases ht
  · simp
  · simp
  · simp [State.skipUnknown]
  · obtain ⟨hi, hdt, hst, hmem, hdisplay, hstack⟩ := (effect_of_exec hx).writers
    simp only [hd, Option.some.injEq]
    exact ⟨hi.resolve_left, hdt.resolve_left, hst.resolve_left, hmem.resolve_left,
      fun h => hdisplay.resolve_left (not_and_or.mpr h), fun h => hstack.resolve_left (not_and_or.mpr h)⟩

end Sys2Proof.Machine
end

section
/-! PROOFS. The invariant of a run (spec/10_state.md R17, R19; spec/60_exceptions.md R172; log 8): it holds at reset, every Step
keeps it, and so does every command. -/

namespace Sys2Proof.Machine

/-! ### What an effect keeps -/

theorem Effect.keeps_memOk {s t : State} {i : Instr} (h : Effect s i t) (hm : s.MemOk) : t.MemOk := by
  cases h with
  | memory _ bs hin => exact Memory.writeAll_keeps_wf bs hin hm
  | _ => exact hm

/-- A call pushes the address it was fetched from. -/
theorem Effect.keeps_stackOk {s t : State} {i : Instr} (h : Effect s i t) (hp : s.pc.toNat ≤ 0xFFE) (hs : s.StackOk) :
    t.StackOk := by
  cases h with
  | call _ sp stack hsp hstack =>
    intro j hj
    change (State.stackAt { s with sp := sp, stack := stack } j).toNat ≤ 0xFFE
    rw [hstack]
    split
    · exact hp
    · exact hs j (by change j < sp.val at hj; omega)
  | ret sp _ hsp => exact fun j hj => hs j (by change j < sp.val at hj; omega)
  | _ => exact hs

theorem State.CanMoveTo.toNat_le {s : State} {pc : Word} (h : s.CanMoveTo pc) (hp : s.pc.toNat ≤ 0xFFE) :
    pc.toNat ≤ 0x10FE := by
  obtain h | ⟨n, hn, rfl⟩ := h
  · exact h
  · rw [BitVec.toNat_add, BitVec.toNat_ofNat]
    omega

theorem State.canMoveTo_next (s : State) : s.CanMoveTo (s.pc + 2) := .inr ⟨2, by decide, rfl⟩

/-- A return goes 2 past a live entry, which is at most 0xFFE. -/
theorem Effect.pcOk {s t : State} {i : Instr} (h : Effect s i t) (hp : s.pc.toNat ≤ 0xFFE) (hs : s.StackOk) :
    t.PcOk := by
  cases h with
  | regs _ _ hpc => exact hpc.toNat_le hp
  | call nnn =>
    have hn : nnn.toNat < 4096 := nnn.isLt
    exact (addrOperand_toNat nnn).trans_le (by omega)
  | ret _ hpos =>
    have hentry := hs (s.sp.val - 1) (by omega)
    change (s.stackAt (s.sp.val - 1) + 2#16).toNat ≤ 0x10FE
    rw [BitVec.toNat_add, BitVec.toNat_ofNat]
    omega
  | fault => exact Nat.le_trans hp (by decide)
  | _ => exact s.canMoveTo_next.toNat_le hp

/-- Either ERR is as before, or a fault has cleared AWAIT. -/
theorem Effect.keeps_haltOk {s t : State} {i : Instr} (h : Effect s i t) (hr : s.Running) :
    (t.setAwait (awaitAfter i s)).HaltOk := by
  intro herr
  obtain hsame | ⟨e, hcause, _⟩ := h.err_cases
  · exact absurd (hsame.trans hr) herr
  · exact hcause.awaitAfter_eq_false

theorem step_keeps_inv {s t : State} (hinv : s.Inv) (h : step s = .next t) : t.Inv := by
  have ⟨hmem, hstack, hpcOk, _⟩ := hinv
  obtain ⟨_, rfl⟩ | ⟨_, _, rfl⟩ | ⟨hr, hp, _, rfl⟩ | ⟨hr, hp, i, u, _, hx, rfl⟩ := cycle_cases h
  · exact hinv
  · exact ⟨hmem, hstack, hpcOk, fun _ => rfl⟩
  · exact ⟨hmem, hstack, s.canMoveTo_next.toNat_le hp, fun hh => absurd hr hh⟩
  · have heffect := effect_of_exec hx
    exact ⟨heffect.keeps_memOk hmem, heffect.keeps_stackOk hp hstack, heffect.pcOk hp hstack, heffect.keeps_haltOk hr⟩

theorem resetWith_inv (c : Config) : (State.resetWith c).Inv :=
  ⟨State.resetWith_wf c, fun _ hj => absurd hj (Nat.not_lt_zero _), Nat.le_of_ble_eq_true rfl, fun hh => absurd rfl hh⟩

theorem load_keeps_inv {s t : State} {bytes : List Byte} (hinv : s.Inv) (h : s.load bytes = .ok t) : t.Inv := by
  have ⟨hmem, hstack, hpc, hhalt⟩ := hinv
  have hkept := State.load_keeps_wf h hmem
  by_cases hle : bytes.length ≤ progMax
  · cases (s.load_of_length_le hle).symm.trans h
    exact ⟨hkept, hstack, hpc, hhalt⟩
  · cases (s.load_of_lt_length (Nat.lt_of_not_le hle)).symm.trans h

/-! ### The statements on the invariant -/

/-- Settles O46: each branch of the Step keeps each of the four parts. -/
theorem stepKeepsTheInvariant : Obligations.StepKeepsTheInvariant := fun _ _ => step_keeps_inv

/-- Settles O45: nothing is listed in memory, nothing is on the stack, pc is 0x200 and ERR is 0. -/
theorem invariantHoldsAtReset : Obligations.InvariantHoldsAtReset := ⟨resetWith_inv, resetWith_inv defaultConfig⟩

/-- Settles O47: Step and Load are the two that write a cell the invariant reads, Reset apart. -/
theorem commandsKeepTheInvariant : Obligations.CommandsKeepTheInvariant := by
  intro c s t r hinv h
  cases c with
  | reset => cases h; exact resetWith_inv s.cfg
  | load bytes =>
    cases hl : s.load bytes with
    | ok u => cases (perform_load_of_ok hl).symm.trans h; exact load_keeps_inv hinv hl
    | error e => cases (perform_load_of_error hl).symm.trans h; exact hinv
  | step b =>
    obtain ⟨u, hu, rfl, _⟩ := step_of_perform_step h
    have hkept : u.Inv := step_keeps_inv (s := { s with rndIn := some b }) hinv hu
    exact hkept
  | tick => cases h; exact hinv
  | setKey k p => cases h; exact hinv
  | consumeRedraw => cases h; exact hinv

end Sys2Proof.Machine
end

section
/-! PROOFS. What a Step reads (spec/40_step_cycle.md R87): a change of cells an instruction does not touch goes through it
unchanged, so the inputs are read only where they are named and the output cells by no Step. -/

namespace Sys2Proof.Machine

/-! ### Changing the input and output cells -/

/-- One change for each of the cells that are inputs or outputs of the block; the other cells stay. -/
structure CellMap where
  rndIn : Option Byte → Option Byte := id
  draws : Nat → Nat := id
  key   : Vector Bool 16 → Vector Bool 16 := id
  dt    : Byte → Byte := id
  st    : Byte → Byte := id
  sndp  : Bool → Bool := id
  drawf : Bool → Bool := id
  await : Bool → Bool := id

/-- The state with those cells changed. -/
def State.recast (s : State) (m : CellMap) : State :=
  { s with
    rndIn := m.rndIn s.rndIn
    draws := m.draws s.draws
    key := m.key s.key
    dt := m.dt s.dt
    st := m.st s.st
    sndp := m.sndp s.sndp
    drawf := m.drawf s.drawf
    await := m.await s.await }

/-- The change leaves alone what the instruction reads or writes: DRAWF set and AWAIT cleared stay so, and each other cell is
unchanged where the instruction names it. -/
structure CellMap.Spares (m : CellMap) (i : Instr) : Prop where
  drawf : m.drawf true = true
  await : m.await false = false
  rnd   : ∀ x kk, i = .rnd x kk → m.rndIn = id ∧ m.draws = id
  key   : ∀ x, i = .skp x ∨ i = .sknp x ∨ i = .ldKey x → m.key = id
  dt    : ∀ x, i = .ldGetDT x ∨ i = .ldSetDT x → m.dt = id
  st    : ∀ x, i = .ldSetST x → m.st = id

section
variable (s : State) (m : CellMap)

@[simp] theorem State.pc_recast : (s.recast m).pc = s.pc := rfl
@[simp] theorem State.reg_recast (r : Nibble) : (s.recast m).reg r = s.reg r := rfl
@[simp] theorem State.indexAddr_recast : (s.recast m).indexAddr = s.indexAddr := rfl
@[simp] theorem regBlock_recast (x : Nibble) : regBlock (s.recast m) x = regBlock s x := rfl

theorem State.push_recast (w : Word) : (s.recast m).push w = (s.push w).map (·.recast m) := by
  symm
  unfold State.push
  rw [apply_dite (Option.map _)]
  rfl

theorem State.pop_recast : (s.recast m).pop = s.pop.map (Prod.map id (·.recast m)) := by
  symm
  unfold State.pop
  rw [apply_dite (Option.map _)]
  rfl

theorem State.storeBytes_recast (a : Nat) (bs : List Byte) :
    (s.recast m).storeBytes a bs = (s.storeBytes a bs).map (·.recast m) := by
  unfold State.storeBytes
  split <;> rfl

theorem State.loadBytes_recast (a n : Nat) : (s.recast m).loadBytes a n = s.loadBytes a n := rfl

theorem State.loadRegs_recast (j : Nat) (bs : List Byte) :
    (s.recast m).loadRegs j bs = (s.loadRegs j bs).recast m := by
  induction bs generalizing s j with
  | nil => rfl
  | cons b bs ih => exact ih (s.setReg _ b) (j + 1)

theorem State.keyDown_recast {m : CellMap} (h : m.key = id) (k : Nibble) : (s.recast m).keyDown k = s.keyDown k := by
  simp [State.keyDown, State.recast, h]

theorem State.firstKey_recast {m : CellMap} (h : m.key = id) : (s.recast m).firstKey = s.firstKey := by
  simp only [State.firstKey, State.keyDown_recast s h]

theorem State.raise_recast (h : m.await false = false) (e : ErrCode) :
    (s.raise e).recast m = (s.recast m).raise e := by
  simp [State.recast, State.raise, h]

theorem State.setDisplay_recast (h : m.drawf true = true) (fb : Framebuffer) :
    (s.setDisplay fb).recast m = (s.recast m).setDisplay fb := by
  simp [State.recast, State.setDisplay, h]

end

/-- The change goes through every instruction it spares. -/
theorem exec_recast {m : CellMap} {i : Instr} (h : m.Spares i) (s : State) :
    exec i (s.recast m) = onNext (·.recast m) (exec i s) := by
  obtain ⟨hdrawf, hawait, hrnd, hkey, hdt, hst⟩ := h
  cases i with
  | cls => exact congrArg (fun t => Host.Outcome.next (t.advance 2)) (s.setDisplay_recast m hdrawf _).symm
  | ret =>
    rw [exec, exec, execRet, execRet, State.pop_recast]
    cases s.pop with
    | none => exact congrArg Host.Outcome.next (s.raise_recast m hawait _).symm
    | some p => rfl
  | call nnn =>
    simp only [exec, execCall, State.pc_recast, State.push_recast]
    cases s.push s.pc with
    | none => exact congrArg Host.Outcome.next (s.raise_recast m hawait _).symm
    | some u => rfl
  | rnd x kk =>
    obtain ⟨hin, hdraws⟩ := hrnd x kk rfl
    simp [exec_rnd, onNext, State.recast, State.setReg, State.takeRnd, State.advance, State.rndByte, hin, hdraws]
  | drw x y n =>
    simp only [exec, execDrw, State.indexAddr_recast, State.loadBytes_recast]
    cases s.loadBytes s.indexAddr n.toNat with
    | none => exact congrArg Host.Outcome.next (s.raise_recast m hawait _).symm
    | some bs =>
      exact congrArg (fun t => Host.Outcome.next ((State.setReg t regF _).advance 2))
        (s.setDisplay_recast m hdrawf _).symm
  | skp x =>
    simp only [exec_skp, State.keyDown_recast s (hkey x (.inl rfl)), State.reg_recast, State.pc_recast]
    rfl
  | sknp x =>
    simp only [exec_sknp, State.keyDown_recast s (hkey x (.inr (.inl rfl))), State.reg_recast, State.pc_recast]
    rfl
  | ldGetDT x => simp [exec_ldGetDT, onNext, State.recast, State.setReg, State.advance, hdt x (.inl rfl)]
  | ldKey x =>
    simp only [exec, execLdKey, State.firstKey_recast s (hkey x (.inr (.inr rfl)))]
    cases s.firstKey <;> rfl
  | ldSetDT x => simp [exec_ldSetDT, onNext, State.recast, State.setDT, State.advance, State.reg, hdt x (.inr rfl)]
  | ldSetST x => simp [exec_ldSetST, onNext, State.recast, State.setST, State.advance, State.reg, hst x rfl]
  | ldBcd x =>
    simp only [exec, execLdBcd, State.indexAddr_recast, State.reg_recast, State.storeBytes_recast]
    cases s.storeBytes s.indexAddr (decimalDigits (s.reg x)) with
    | none => exact congrArg Host.Outcome.next (s.raise_recast m hawait _).symm
    | some u => rfl
  | ldStore x =>
    simp only [exec, execLdStore, State.indexAddr_recast, regBlock_recast, State.storeBytes_recast]
    cases s.storeBytes s.indexAddr (regBlock s x) with
    | none => exact congrArg Host.Outcome.next (s.raise_recast m hawait _).symm
    | some u => rfl
  | ldLoad x =>
    simp only [exec, execLdLoad, State.indexAddr_recast, State.loadBytes_recast]
    cases s.loadBytes s.indexAddr (x.toNat + 1) with
    | none => exact congrArg Host.Outcome.next (s.raise_recast m hawait _).symm
    | some bs => exact congrArg (fun t => Host.Outcome.next (State.advance t 2)) (s.loadRegs_recast m 0 bs)
  | _ => rfl

theorem exec_recast_of_exec {m : CellMap} {i : Instr} {s t : State} (h : m.Spares i) (ht : exec i s = .next t) :
    exec i (s.recast m) = .next (t.recast m) := by
  rw [exec_recast h, ht, onNext]

/-! ### The statements on what is read -/

/-- Settles O50: each of the three changes spares every instruction but those that read the cell, and FX15 writes DT whatever
it was. -/
theorem inputsAreReadOnlyWhereNamed : Obligations.InputsAreReadOnlyWhereNamed := by
  intro i s t ht
  refine ⟨fun b c hrnd => ?_, fun k hskp hsknp hldKey => ?_, fun d hget => ?_⟩
  · exact exec_recast_of_exec (m := { rndIn := fun _ => b, draws := fun _ => c })
      ⟨rfl, rfl, fun x kk hi => absurd hi (hrnd x kk), fun _ _ => rfl, fun _ _ => rfl, fun _ _ => rfl⟩ ht
  · have hspared (x : Nibble) : ¬ (i = .skp x ∨ i = .sknp x ∨ i = .ldKey x) := by simp [hskp, hsknp, hldKey]
    exact exec_recast_of_exec (m := { key := fun _ => k })
      ⟨rfl, rfl, fun _ _ _ => ⟨rfl, rfl⟩, fun x hi => absurd hi (hspared x), fun _ _ => rfl, fun _ _ => rfl⟩ ht
  · by_cases hset : ∃ x, i = .ldSetDT x
    · obtain ⟨x, rfl⟩ := hset
      cases ht
      exact ⟨s.reg x, rfl⟩
    · have hspared (x : Nibble) : ¬ (i = .ldGetDT x ∨ i = .ldSetDT x) :=
        not_or.mpr ⟨hget x, fun hi => hset ⟨x, hi⟩⟩
      exact ⟨d, exec_recast_of_exec (m := { dt := fun _ => d })
        ⟨rfl, rfl, fun _ _ _ => ⟨rfl, rfl⟩, fun _ _ => rfl, fun x hi => absurd hi (hspared x), fun _ _ => rfl⟩ ht⟩

/-- One fixed value for each output cell, with DRAWF set and AWAIT cleared. -/
def CellMap.fixOutputs : CellMap :=
  { st := fun _ => 0, sndp := fun _ => false, drawf := fun _ => true, await := fun _ => false }

theorem State.eq_of_recast_fixOutputs {t u : State} (h : u.recast .fixOutputs = t.recast .fixOutputs) :
    u = { t with st := u.st, sndp := u.sndp, drawf := u.drawf, await := u.await } :=
  congrArg (fun w : State => { w with st := u.st, sndp := u.sndp, drawf := u.drawf, await := u.await }) h

/-- With the output cells fixed the two states before are one, and so are the two after; FX18 alone names such a cell. -/
theorem exec_ignores_outputs {i : Instr} {s t u : State} {st : Byte} {sndp drawf aw : Bool} (ht : exec i s = .next t)
    (hu : exec i { s with st := st, sndp := sndp, drawf := drawf, await := aw } = .next u) :
    u = { t with st := u.st, sndp := u.sndp, drawf := u.drawf, await := u.await } := by
  by_cases hset : ∃ x, i = .ldSetST x
  · obtain ⟨x, rfl⟩ := hset
    cases ht
    cases hu
    rfl
  · have hspares : CellMap.fixOutputs.Spares i :=
      ⟨rfl, rfl, fun _ _ _ => ⟨rfl, rfl⟩, fun _ _ => rfl, fun _ _ => rfl, fun x hi => absurd ⟨x, hi⟩ hset⟩
    have ht' := exec_recast_of_exec hspares ht
    have hu' := exec_recast_of_exec hspares hu
    exact State.eq_of_recast_fixOutputs (Host.Outcome.next.inj (hu'.symm.trans ht'))

/-- Settles O51: each branch of the Step is chosen by cells the two states share. -/
theorem stepIgnoresOutputCells : Obligations.StepIgnoresOutputCells := by
  intro s t st sndp drawf aw ht
  obtain ⟨hh, rfl⟩ | ⟨hr, hp, rfl⟩ | ⟨hr, hp, hd, rfl⟩ | ⟨hr, hp, i, u, hd, hx, rfl⟩ := cycle_cases ht
  · exact ⟨_, step_of_halted hh, rfl⟩
  · exact ⟨_, step_of_unfetchable hr hp, rfl⟩
  · exact ⟨_, step_of_unknown hr hp hd, rfl⟩
  · obtain ⟨w, hw, _⟩ := exec_effect i { s with st := st, sndp := sndp, drawf := drawf, await := aw }
    exact ⟨_, step_of_decode hr hp hd hw, congrArg (State.setAwait · (awaitAfter i s)) (exec_ignores_outputs hx hw)⟩

end Sys2Proof.Machine
end

section
/-! PROOFS. VF (spec/10_state.md section 2, R12): who writes it, and what a flag writer leaves there. -/

namespace Sys2Proof.Machine

/-- The seven flag writers, and the instructions that name VF as their destination. -/
def MayWriteVF (i : Instr) : Prop :=
  (∃ x y, i = .addR x y) ∨ (∃ x y, i = .sub x y) ∨ (∃ x y, i = .shr x y) ∨ (∃ x y, i = .subn x y) ∨
    (∃ x y, i = .shl x y) ∨ (∃ x y n, i = .drw x y n) ∨ (∃ x, i = .addIndex x) ∨
    (∃ kk, i = .ldI 0xF kk ∨ i = .addI 0xF kk ∨ i = .rnd 0xF kk) ∨
    (∃ y, i = .ldR 0xF y ∨ i = .orR 0xF y ∨ i = .andR 0xF y ∨ i = .xorR 0xF y) ∨
    i = .ldGetDT 0xF ∨ i = .ldKey 0xF ∨ i = .ldLoad 0xF

/-! ### What the shared register writes do to VF -/

/-- A register write changes VF only where it names it. -/
theorem State.regF_setReg_advance (s : State) (x : Nibble) (b : Byte) (n : Nat) :
    ((s.setReg x b).advance n).reg regF = s.reg regF ∨ x = regF := by
  by_cases hx : x = regF
  · exact .inr hx
  · exact .inl (by rw [State.reg_advance, State.reg_setReg, if_neg (Ne.symm hx)])

theorem State.regF_setReg_regF (s : State) (f : Bool) :
    (s.setReg regF (flagByte f)).reg regF = 0 ∨ (s.setReg regF (flagByte f)).reg regF = 1 := by
  rw [State.reg_setReg, if_pos rfl]
  exact flagByte_eq_zero_or_one f

/-! ### The instructions that write registers only in some of their cases -/

theorem exec_call_keepsRegs {nnn : Addr12} {s t : State} (h : exec (.call nnn) s = .next t) : KeepsRegs s t := by
  by_cases hfull : s.sp.val = 16
  · cases (exec_call_of_full nnn hfull).symm.trans h
    exact fun _ => rfl
  · obtain ⟨sp, stack, hexec, _⟩ := exec_call_of_lt nnn (show s.sp.val < 16 by omega)
    cases hexec.symm.trans h
    exact fun _ => rfl

theorem exec_ret_keepsRegs {s t : State} (h : exec .ret s = .next t) : KeepsRegs s t := by
  by_cases hempty : s.sp.val = 0
  · cases (exec_ret_of_empty hempty).symm.trans h
    exact fun _ => rfl
  · obtain ⟨sp, hexec, _⟩ := exec_ret_of_pos (Nat.pos_of_ne_zero hempty)
    cases hexec.symm.trans h
    exact fun _ => rfl

theorem exec_ldBcd_keepsRegs {x : Nibble} {s t : State} (h : exec (.ldBcd x) s = .next t) : KeepsRegs s t := by
  by_cases hin : s.indexAddr + 2 ≤ 0xFFF
  · cases (exec_ldBcd_of_le x hin).symm.trans h
    exact fun _ => rfl
  · cases (exec_ldBcd_of_lt x (Nat.lt_of_not_le hin)).symm.trans h
    exact fun _ => rfl

theorem exec_ldStore_keepsRegs {x : Nibble} {s t : State} (h : exec (.ldStore x) s = .next t) : KeepsRegs s t := by
  by_cases hin : s.indexAddr + x.toNat ≤ 0xFFF
  · cases (exec_ldStore_of_le hin).symm.trans h
    exact fun _ => rfl
  · cases (exec_ldStore_of_lt (Nat.lt_of_not_le hin)).symm.trans h
    exact fun _ => rfl

/-- A block load reaches VF only when it loads all 16 registers. -/
theorem exec_ldLoad_regF {x : Nibble} {s t : State} (h : exec (.ldLoad x) s = .next t) :
    t.reg regF = s.reg regF ∨ x = regF := by
  by_cases hin : s.indexAddr + x.toNat ≤ 0xFFF
  · cases (exec_ldLoad_of_le hin).symm.trans h
    rw [State.reg_advance, State.reg_loadRegs_range]
    split
    · next hle =>
      have hlt : x.toNat < 16 := x.isLt
      exact .inr (BitVec.eq_of_toNat_eq (Nat.le_antisymm (Nat.le_of_lt_succ hlt) hle))
    · exact .inl rfl
  · cases (exec_ldLoad_of_lt (Nat.lt_of_not_le hin)).symm.trans h
    exact .inl rfl

theorem exec_ldKey_regF {x : Nibble} {s t : State} (h : exec (.ldKey x) s = .next t) :
    t.reg regF = s.reg regF ∨ x = regF := by
  cases hkey : s.firstKey with
  | none =>
    cases (exec_ldKey_of_none x hkey).symm.trans h
    exact .inl rfl
  | some k =>
    cases (exec_ldKey_of_some x hkey).symm.trans h
    exact s.regF_setReg_advance x _ 2

/-- A draw that moves pc has not faulted. -/
theorem exec_drw_regF {x y n : Nibble} {s t : State} (h : exec (.drw x y n) s = .next t) (hpc : t.pc ≠ s.pc) :
    t.reg regF = 0 ∨ t.reg regF = 1 := by
  by_cases hin : n.toNat = 0 ∨ s.i.toNat + n.toNat - 1 ≤ 0xFFF
  · cases (exec_drw_of_le x y hin).symm.trans h
    exact State.regF_setReg_regF _ _
  · obtain ⟨hn, hout⟩ := not_or.mp hin
    cases (exec_drw_of_lt x y (Nat.pos_of_ne_zero hn) (Nat.lt_of_not_le hout)).symm.trans h
    exact absurd rfl hpc

/-! ### Over all instructions -/

theorem exec_regF_or_mayWriteVF {i : Instr} {s t : State} (h : exec i s = .next t) :
    t.reg regF = s.reg regF ∨ MayWriteVF i := by
  cases i with
  | addR | sub | shr | subn | shl | drw | addIndex => exact .inr (by simp [MayWriteVF])
  | ldI x | addI x | rnd x | ldR x | orR x | andR x | xorR x | ldGetDT x =>
    cases h
    exact (s.regF_setReg_advance x _ 2).imp_right fun hx => by simp [MayWriteVF, hx]
  | ldKey x => exact (exec_ldKey_regF h).imp_right fun hx => by simp [MayWriteVF, hx]
  | ldLoad x => exact (exec_ldLoad_regF h).imp_right fun hx => by simp [MayWriteVF, hx]
  | call nnn => exact .inl (exec_call_keepsRegs h regF)
  | ret => exact .inl (exec_ret_keepsRegs h regF)
  | ldBcd x => exact .inl (exec_ldBcd_keepsRegs h regF)
  | ldStore x => exact .inl (exec_ldStore_keepsRegs h regF)
  | cls | jp | jpV0 | seI | sneI | seR | sneR | skp | sknp | ldIndex | ldFont | ldSetDT | ldSetST =>
    cases h
    exact .inl rfl

/-- Settles O21: who can write VF, instruction by instruction; and the last register write of a flag writer is the flag. -/
theorem onlyFlagWritersAndDestinationsChangeVF : Obligations.OnlyFlagWritersAndDestinationsChangeVF := by
  refine fun i s t h => ⟨(exec_regF_or_mayWriteVF h).resolve_left, ?_⟩
  rintro (⟨x, y, rfl | rfl | rfl | rfl | rfl⟩ | ⟨x, rfl⟩ | ⟨x, y, n, rfl, hpc⟩)
  case inr.inr => exact exec_drw_regF h hpc
  all_goals
    cases h
    exact State.regF_setReg_regF _ _

end Sys2Proof.Machine
end

section
/-! PROOFS. The host commands Reset, Tick and Step (spec/70_reset_and_hazards.md; spec/60_exceptions.md section 8;
spec/42_alu.md section 4). -/

namespace Sys2Proof.Machine

/-! ### The reset contents of memory (spec/10_state.md R21, R23) -/

theorem resetByte_font (c : Config) (j : Fin 80) : resetByte c (c.fontBase.val + j.val) = c.font[j.val] := by
  have hj : j.val < 80 := j.isLt
  have hin : c.fontBase.val ≤ c.fontBase.val + j.val ∧ c.fontBase.val + j.val < c.fontBase.val + 80 := by omega
  simp [resetByte, hin]

theorem resetByte_outside (c : Config) {a : Nat} (h : a < c.fontBase.val ∨ c.fontBase.val + 80 ≤ a) :
    resetByte c a = 0 := dif_neg (by omega)

/-- The font ends at or below 0x200. -/
theorem resetByte_program (c : Config) {a : Nat} (h : progBase ≤ a) : resetByte c a = 0 := by
  have hbase : c.fontBase.val < 433 := c.fontBase.isLt
  simp only [progBase] at h
  exact resetByte_outside c (.inr (by omega))

/-! ### The statements of the family -/

/-- Settles O55: the command's state is the reset state of the same parameters, cell by cell. -/
theorem resetGivesTheResetState : Obligations.ResetGivesTheResetState := by
  intro s
  refine ⟨s.resetCommand, rfl, fun r => ?_, rfl, rfl, rfl, fun j => ?_, rfl, rfl, resetByte_font s.cfg,
    fun a ha => resetByte_outside s.cfg ha, Framebuffer.pixel_blank, fun k => ?_, rfl, rfl, rfl, rfl, rfl, rfl⟩
  · exact Vector.getElem_replicate _
  · simp [State.stackAt, State.resetCommand, State.resetWith]
  · exact Vector.getElem_replicate _

/-- Settles O52: the two countdowns and the signal, in a state otherwise the same. -/
theorem tickCountsDownAndSignals : Obligations.TickCountsDownAndSignals := fun s =>
  ⟨s.tick, rfl, countDown_toNat s.dt, countDown_toNat s.st, s.tick_sndp_iff, rfl⟩

/-- Settles O56: both bytes at 0x200 are 0, above the font, and O38 gives the Step. -/
theorem firstStepWithoutProgramIsUnknown : Obligations.FirstStepWithoutProgramIsUnknown := by
  intro c b
  have hhi : (State.resetWith c).byte 0x200 = 0 := resetByte_program c (by decide)
  have hlo : (State.resetWith c).byte 0x201 = 0 := resetByte_program c (by decide)
  have hword : (State.resetWith c).fetchWord = 0x0000 := congrArg₂ wordOfBytes hhi hlo
  have hunknown : decodeWord (State.resetWith c).fetchWord = none := (congrArg decodeWord hword).trans rfl
  obtain ⟨_, hperform⟩ :=
    unknownOpcodeIsSkippedAndReported (State.resetWith c) b rfl (Nat.le_of_ble_eq_true rfl) rfl hunknown
  have hevent : perform (.step b) (State.resetWith c) = .next ({ State.resetWith c with pc := 0x202 },
      .stepped (some ⟨0x200, (State.resetWith c).fetchWord⟩)) := hperform
  rw [hevent, hword]

/-- Settles O57: the Step command runs CXKK with its byte as the input, and a decoded word raises no event. -/
theorem stepCommandSuppliesTheRandomByte : Obligations.StepCommandSuppliesTheRandomByte := by
  intro x kk b s hr hp hfetch
  have hd : decodeWord s.fetchWord = some (.rnd x kk) := by rw [hfetch]; exact decodeWord_encode (.rnd x kk)
  have hstep := step_of_decode (s := { s with rndIn := some b }) hr hp hd (exec_rnd x kk _)
  refine ⟨_, by rw [perform_step_of_step hstep, State.stepEvent_of_decode hd], ?_, rfl, rfl⟩
  exact (State.reg_setReg { s with rndIn := some b } x x (b &&& kk)).trans (if_pos rfl)

end Sys2Proof.Machine
end

section
/-! PROOFS. The port binding (spec/46_host_commands.md section 5, decision D1): a cycle is the command of its name, and Load is a
run of LoadByte. -/

namespace Sys2Proof.Machine

/-! ### LoadByte -/

theorem State.loadByte_of_le (s : State) {a : Addr12} (b : Byte) (h : progBase ≤ a.toNat) :
    s.loadByte a b = { s with mem := s.mem.write s.cfg a.toNat b } := if_pos h

theorem State.loadByte_of_lt (s : State) {a : Addr12} (b : Byte) (h : a.toNat < progBase) : s.loadByte a b = s :=
  if_neg (Nat.not_le_of_lt h)

theorem State.loadByte_eq (s : State) (a : Addr12) (b : Byte) :
    s.loadByte a b = { s with mem := (s.loadByte a b).mem } := by
  obtain h | h := Nat.lt_or_ge a.toNat progBase
  · rw [State.loadByte_of_lt s b h]
  · rw [State.loadByte_of_le s b h]

theorem State.byte_loadByte (s : State) (a : Addr12) (b : Byte) (a' : Nat) :
    (s.loadByte a b).byte a' = if a' = a.toNat ∧ 0x200 ≤ a' then b else s.byte a' := by
  obtain h | h := Nat.lt_or_ge a.toNat progBase
  · simp only [progBase] at h
    rw [State.loadByte_of_lt s b h, if_neg (by omega)]
  · rw [State.loadByte_of_le s b h, State.byte, Memory.read_write, State.byte]
    simp only [progBase] at h
    exact if_congr ⟨fun ha => ⟨ha, ha ▸ h⟩, And.left⟩ rfl rfl

/-- A run of LoadBytes from 0x200 + k on is one run of writes, as long as it ends inside memory. -/
theorem State.load_foldl_loadByte (bytes : List Byte) (k : Nat) (s : State) (h : k + bytes.length ≤ progMax) :
    (List.range bytes.length).foldl (fun u j => u.loadByte (BitVec.ofNat 12 (progBase + k + j)) (bytes.getD j 0)) s =
      { s with mem := s.mem.writeAll s.cfg (progBase + k) bytes } := by
  induction bytes generalizing k s with
  | nil => rfl
  | cons b bs ih =>
    simp only [progMax, List.length_cons] at h ih
    have haddr : (BitVec.ofNat 12 (progBase + k)).toNat = progBase + k :=
      (BitVec.toNat_ofNat _ _).trans (Nat.mod_eq_of_lt (by simp only [progBase]; omega))
    have hfirst : s.loadByte (BitVec.ofNat 12 (progBase + k)) b =
        { s with mem := s.mem.write s.cfg (progBase + k) b } := by
      rw [State.loadByte_of_le s b (by rw [haddr]; omega), haddr]
    have hrest := ih (k + 1) { s with mem := s.mem.write s.cfg (progBase + k) b } (by omega)
    rw [List.length_cons, List.range_succ_eq_map, List.foldl_cons, List.foldl_map, Nat.add_zero, List.getD_cons_zero,
      hfirst]
    simp only [List.getD_cons_succ, Nat.succ_eq_add_one, ← Nat.add_assoc, Nat.add_right_comm] at hrest ⊢
    exact hrest

/-! ### A cycle, by what the ports offer -/

theorem portCycle_of_idle {p : PortIn} (s : State) (h : portCommand p = .idle) :
    portCycle p s = .next (s, s.portOut p none) := by
  rw [portCycle, h]

theorem portCycle_of_command {p : PortIn} {s t : State} {c : Command} {r : Response} (h : portCommand p = .command c)
    (hc : perform c s = .next (t, r)) : portCycle p s = .next (t, t.portOut p r.event) := by
  rw [portCycle, h]
  simp only [hc, withPorts]

theorem portCycle_of_loadByte {p : PortIn} (s : State) {a : Addr12} {b : Byte} (h : portCommand p = .loadByte a b) :
    portCycle p s = .next (s.loadByte a b, (s.loadByte a b).portOut p none) := by
  rw [portCycle, h]

theorem portCommand_of_invalid {p : PortIn} (h : p.cmdValid = false) : portCommand p = .idle := by
  simp [portCommand, h]

theorem cmd_cases (c : BitVec 3) : c = 0 ∨ c = 1 ∨ c = 2 ∨ c = 3 ∨ c = 4 ∨ c = 5 ∨ c = 6 ∨ c = 7 := by
  revert c
  decide

/-! ### The statements of the family -/

/-- Settles O59: within the capacity every address is at 0x200 or above, so each LoadByte is one of the writes. -/
theorem loadIsARunOfLoadBytes : Obligations.LoadIsARunOfLoadBytes := by
  intro bytes s t h
  by_cases hle : bytes.length ≤ progMax
  · cases (s.load_of_length_le hle).symm.trans h
    exact (State.load_foldl_loadByte bytes 0 s (by omega)).symm
  · cases (s.load_of_lt_length (Nat.lt_of_not_le hle)).symm.trans h

/-- Settles O58: the value of `cmd` picks the command, and the outputs are read off the state it leaves. -/
theorem portCyclesAreCommands : Obligations.PortCyclesAreCommands := by
  intro p s
  cases hv : p.cmdValid with
  | false =>
    refine ⟨_, _, portCycle_of_idle s (portCommand_of_invalid hv), ?_⟩
    simp [State.portOut]
  | true =>
    obtain hc | hc | hc | hc | hc | hc | hc | hc := cmd_cases p.cmd
    · refine ⟨_, _, portCycle_of_idle s (by simp [portCommand, hv, hc]), ?_⟩
      simp [hc, State.portOut]
    · refine ⟨_, _, portCycle_of_command (c := .reset) (by simp [portCommand, hv, hc]) rfl, ?_⟩
      simp [hc, State.portOut, perform, Response.event]
    · obtain ⟨u, hu⟩ := step_answers { s with rndIn := some p.rnd }
      have hperform := perform_step_of_step hu
      refine ⟨_, _, portCycle_of_command (by simp [portCommand, hv, hc]) hperform, ?_⟩
      simp [hc, State.portOut, hperform, Response.event]
    · refine ⟨_, _, portCycle_of_command (c := .tick) (by simp [portCommand, hv, hc]) rfl, ?_⟩
      simp [hc, State.portOut, perform, Response.event]
    · refine ⟨_, _, portCycle_of_command (c := .setKey p.keyIdx p.keyVal) (by simp [portCommand, hv, hc]) rfl, ?_⟩
      simp [hc, State.portOut, perform, Response.event]
    · refine ⟨_, _, portCycle_of_command (c := .consumeRedraw) (by simp [portCommand, hv, hc]) rfl, ?_⟩
      simp [hc, State.portOut, perform, Response.event]
    · refine ⟨_, _, portCycle_of_loadByte (a := p.ldAddr) (b := p.ldData) s (by simp [portCommand, hv, hc]), ?_⟩
      simpa [hc, State.portOut] using And.intro (s.byte_loadByte p.ldAddr p.ldData) (s.loadByte_eq p.ldAddr p.ldData)
    · refine ⟨_, _, portCycle_of_idle s (by simp [portCommand, hv, hc]), ?_⟩
      simp [hc, State.portOut]

end Sys2Proof.Machine
end
